-- ==== Sys2Proof/Word.lean ====
section
/-!
DEFINITION. The word types of the CORE and their plainest arithmetic (00_scope R9, R10).
Addresses, the PC, BTB targets and general registers are 32 bits wide; HI/LO is 64 bits wide.
-/

namespace Sys2Proof

/-- A byte of memory (20_memory R60). -/
abbrev Byte := BitVec 8

/-- A 32-bit word: an address, an instruction word or a general register (00_scope R9). -/
abbrev Word := BitVec 32

/-- A 64-bit value: HI/LO, or any operand value carried in the width of the widest register (10_state R22). -/
abbrev DWord := BitVec 64

/-- The low word of a carried value (bits [31:0]). -/
abbrev lowWord (v : DWord) : Word := v.setWidth 32

/-- `zext_64` of a word (00_scope R10). -/
abbrev wideWord (v : Word) : DWord := v.setWidth 64

end Sys2Proof
end

