-- ==== Sys2Proof/Syntax.lean ====
section
/-!
DEFINITION. The instructions of the opcode table and the records the CORE exchanges with DECODE, EXECUTE and REF
(30_encoding R82 to R85, 45_driver R268). Types only: how words become instructions is in Decode.lean.
-/

namespace Sys2Proof

/-- A register index 0..32 (30_encoding R83): 0..31 name `x[0..31]`, 32 names the HI/LO pair. -/
abbrev RegIdx := Fin 33

/-- One constructor per row of the opcode table.

The four class rows (30_encoding R85) carry the descriptor fields the CORE reads and the opaque `op` that only
EXECUTE reads (R82). OTHER and JUMP carry no `mem_size`, which is "read only when is_load or is_store".
The ten fixture rows carry the fields of their word (95_test_vectors section 1.2). -/
inductive Instr where
  | other (src1 src2 dst : Option RegIdx) (op : Word)
  | jump (src1 src2 dst : Option RegIdx) (op : Word)
  | store (src1 src2 dst : Option RegIdx) (memSize : Nat) (op : Word)
  | load (src1 src2 dst : Option RegIdx) (memSize : Nat) (op : Word)
  | addu (rd rs rt : BitVec 5)
  | sll (rd rt sa : BitVec 5)
  | jr (rs : BitVec 5)
  | addiu (rt rs : BitVec 5) (imm : BitVec 16)
  | beq (rs rt : BitVec 5) (imm : BitVec 16)
  | bne (rs rt : BitVec 5) (imm : BitVec 16)
  | j (idx : BitVec 26)
  | jal (idx : BitVec 26)
  | lw (rt rs : BitVec 5) (imm : BitVec 16)
  | sw (rt rs : BitVec 5) (imm : BitVec 16)
deriving DecidableEq, Repr

/-- The descriptor DECODE returns (30_encoding R82). The register fields are plain numbers here, because a
descriptor that names an index outside 0..32 is a case of its own: ill-formed (R86). -/
structure Descriptor where
  src1 : Option Nat
  src2 : Option Nat
  dst : Option Nat
  isLoad : Bool
  isStore : Bool
  isJump : Bool
  memSize : Nat
  op : Word
deriving DecidableEq, Repr, Inhabited

/-- The result of DECODE (30_encoding R81). -/
inductive DecodeResult where
  /-- the word is not an instruction of the instruction set -/
  | invalid
  /-- it is an instruction whose effect the descriptor interface cannot express -/
  | refused
  | ok (d : Descriptor)
deriving DecidableEq, Repr, Inhabited

/-- The result of EXECUTE (30_encoding R84). `vDst` is carried in 64 bits; for a destination 0..31 only its low
word counts. -/
structure ExecOut where
  newPc : Word
  jumpExecuted : Bool
  vDst : DWord
  memAddr : Word
deriving DecidableEq, Repr, Inhabited

/-- The memory effect of a retire record (45_driver R268). -/
inductive MemEffect where
  | none
  | load (addr : Word) (size : Nat)
  | store (addr : Word) (size : Nat) (value : Word)
deriving DecidableEq, Repr, Inhabited

/-- The retire record (45_driver R268). -/
structure RetireRecord where
  pc : Word
  raw : Word
  newPc : Word
  dst : Option RegIdx
  vDst : Option DWord
  mem : MemEffect
deriving DecidableEq, Repr, Inhabited

end Sys2Proof
end

