-- ==== Sys2Proof/Config.lean ====
section
/-!
DEFINITION. What a launch fixes: the configuration record (10_state R36, 00_scope R8) and the parameters the spec
leaves OPEN. The function-valued parameters DECODE, EXECUTE and REF are constants without a body, so a statement
about them holds for every choice of them; State holds only which of them a launch names.
-/

namespace Sys2Proof

/-- ENDIAN (20_memory R63). -/
inductive Endian where
  | little
  | big
deriving DecidableEq, Repr

/-- MISALIGNED_POLICY (20_memory R64). -/
inductive MisalignedPolicy where
  | fault
  | bytewise
deriving DecidableEq, Repr

/-- INVALID_POLICY (43_stages R193). -/
inductive InvalidPolicy where
  | faultAtDecode
  | faultWhenCommitted
deriving DecidableEq, Repr

/-- CHECKER (45_driver R269). -/
inductive Checker where
  | attached
  | detached
deriving DecidableEq, Repr

/-- Which DECODE and EXECUTE a launch uses (00_scope R8, both OPEN). DESIGN CHOICE (log 5): the choice is data. -/
inductive Isa where
  /-- the test fixture of 95_test_vectors section 1 -/
  | fixture
  /-- the word is a packed class descriptor (log 6); EXECUTE is `Config.execute key` -/
  | descriptor (key : Nat)
  /-- any DECODE and any EXECUTE: `Config.decode key` and `Config.execute key` -/
  | external (key : Nat)
deriving DecidableEq, Repr

/-- Which REF the checker steps (45_driver R269). -/
inductive RefModel where
  /-- the functional machine of R269, built from the same parameters -/
  | canonical
  /-- any other reference: its records are `Config.refRecord key` of its launch state -/
  | external (key : Nat)
deriving DecidableEq, Repr

/-- The configuration record (10_state R36) with the names of the three function parameters. The defaults are those
of 00_scope R8; INSTRS_TO_RUN, START_PC and the instruction set have none. DESIGN CHOICE (log 24): a WATCHDOG_LIMIT of 0,
outside the legal values of R8 and checked by no rule, is an ordinary launch here. -/
structure CoreConfig where
  btbSize : Nat := 128
  btbWays : Nat := 4
  predictionBits : Nat := 2
  predictionLevel : Nat := 0
  branchIpBits : Nat := 32
  instrsToRun : Nat
  watchdogLimit : Nat := 1000
  startPc : Word
  endian : Endian := .little
  misalignedPolicy : MisalignedPolicy := .fault
  invalidPolicy : InvalidPolicy := .faultWhenCommitted
  r0Tracked : Bool := false
  checker : Checker := .attached
  isa : Isa
  refModel : RefModel := .canonical
deriving DecidableEq, Repr

/-- DECODE of an open instruction set (30_encoding R81): a function of the word and its address only. -/
opaque Config.decode : Nat → Word → Word → DecodeResult

/-- EXECUTE of a class instruction (30_encoding R84): a function of its arguments only. -/
opaque Config.execute : Nat → Instr → Word → DWord → DWord → ExecOut

/-- The launch state a REF is initialised with (45_driver R269): START_PC, RF_INIT and MEM_INIT. -/
structure RefStart where
  startPc : Word
  rfInit : Vector Word 32
  hiloInit : DWord
  memInit : List (Nat × Byte)
deriving DecidableEq, Repr

/-- The k-th record of a non-canonical REF (45_driver R269): REF key, the launch state it was initialised with, and the
number of steps before (log 16). -/
opaque Config.refRecord : Nat → RefStart → Nat → RetireRecord

/-- What the EX fields of a record hold before Execute has processed it (30_encoding R89: "unspecified"): a free
value of the record's raw word, PC and source values (log 13). -/
opaque Config.unexecuted : Word → Word → DWord → DWord → ExecOut

/-- `v_dst` where the fixture table of 95_test_vectors 1.3 states none: a free value of EXECUTE's arguments (log 14). -/
opaque Config.unstatedDst : Instr → Word → DWord → DWord → DWord

/-- `mem_addr` where the fixture table of 95_test_vectors 1.3 states none (log 14). -/
opaque Config.unstatedAddr : Instr → Word → DWord → DWord → Word

end Sys2Proof
end

