-- ==== Sys2Proof/WellFormed.lean ====
section
/-!
DEFINITION. Which terms of `Instr` are instructions (30_encoding R86). A register index is 0..32 by its type and a
constructor fixes the class vector, so the one check left on a term is the access size of LOAD and STORE.
The checks on a raw descriptor, with the same rule, are `classify` in Decode.lean.
-/

namespace Sys2Proof

/-- A legal `mem_size` (20_memory R65, 30_encoding R86). -/
def legalSize (n : Nat) : Bool := n == 1 || n == 2 || n == 4

/-- Well-formedness of an instruction: a LOAD or STORE moves 1, 2 or 4 bytes (30_encoding R86). -/
def Instr.wellFormed : Instr → Bool
  | .store _ _ _ n _ => legalSize n
  | .load _ _ _ n _ => legalSize n
  | .other _ _ _ _ => true
  | .jump _ _ _ _ => true
  | .addu _ _ _ => true
  | .sll _ _ _ => true
  | .jr _ => true
  | .addiu _ _ _ => true
  | .beq _ _ _ => true
  | .bne _ _ _ => true
  | .j _ => true
  | .jal _ => true
  | .lw _ _ _ => true
  | .sw _ _ _ => true

end Sys2Proof
end

