-- ==== Sys2Proof/Decode.lean ====
section
/-!
DEFINITION. DECODE (30_encoding R81 to R87) and the encoder.

Two encodings exist in the spec: the class vector of a descriptor (R85, the four class rows) and the 32-bit words of
the test fixture (95_test_vectors 1.2, the ten fixture rows). The operand fields around the class vector are not in the
spec: DESIGN CHOICE, log 6. A descriptor word is, from bit 0: class vector (3 bits, is_jump, is_store, is_load), src1,
src2, dst (6 bits each, 0 = none, r + 1 = register r), log2 mem_size (2 bits), and 9 bits left to `op`.
-/

namespace Sys2Proof

/-! ### Descriptors and classes -/

/-- A register field of a descriptor as a register index; the outer `none` is an index outside 0..32 (30_encoding R86). -/
def checkReg : Option Nat → Option (Option RegIdx)
  | none => some none
  | some n => if h : n < 33 then some (some ⟨n, h⟩) else none

/-- The instruction of a descriptor, by its class vector; `none` when the descriptor is ill-formed
(30_encoding R85, R86). -/
def classify (d : Descriptor) : Option Instr :=
  match checkReg d.src1, checkReg d.src2, checkReg d.dst with
  | some s1, some s2, some t =>
    match d.isLoad, d.isStore, d.isJump with
    | false, false, false => some (.other s1 s2 t d.op)
    | false, false, true => some (.jump s1 s2 t d.op)
    | false, true, false => if legalSize d.memSize then some (.store s1 s2 t d.memSize d.op) else none
    | true, false, false => if legalSize d.memSize then some (.load s1 s2 t d.memSize d.op) else none
    | false, true, true => none
    | true, false, true => none
    | true, true, false => none
    | true, true, true => none
  | _, _, _ => none

/-- A 6-bit register field of a descriptor word: 0 is `none`, v is register v - 1 (log 6). -/
def unpackReg (v : BitVec 6) : Option Nat := if v = 0 then none else some (v.toNat - 1)

/-- The descriptor a descriptor word and its `op` stand for (log 6). -/
def unpackDescriptor (head op : Word) : Descriptor where
  src1 := unpackReg (head.extractLsb' 3 6)
  src2 := unpackReg (head.extractLsb' 9 6)
  dst := unpackReg (head.extractLsb' 15 6)
  isLoad := head.getLsbD 2
  isStore := head.getLsbD 1
  isJump := head.getLsbD 0
  memSize := 2 ^ (head.extractLsb' 21 2).toNat
  op := op

/-! ### The fixture's words -/

/-- DECODE of the test fixture: the first row of 95_test_vectors 1.2 whose condition the word meets. -/
def decodeFixture (w : Word) : Option Instr :=
  let op := w.extractLsb' 26 6
  let rs := w.extractLsb' 21 5
  let rt := w.extractLsb' 16 5
  let rd := w.extractLsb' 11 5
  let sa := w.extractLsb' 6 5
  let fn := w.extractLsb' 0 6
  let imm := w.extractLsb' 0 16
  let idx := w.extractLsb' 0 26
  if op = 0 ∧ fn = 0x21 ∧ sa = 0 then some (.addu rd rs rt)
  else if op = 0 ∧ fn = 0x00 ∧ rs = 0 then some (.sll rd rt sa)
  else if op = 0 ∧ fn = 0x08 ∧ w.extractLsb' 6 15 = 0 then some (.jr rs)
  else if op = 0x09 then some (.addiu rt rs imm)
  else if op = 0x04 then some (.beq rs rt imm)
  else if op = 0x05 then some (.bne rs rt imm)
  else if op = 0x02 then some (.j idx)
  else if op = 0x03 then some (.jal idx)
  else if op = 0x23 then some (.lw rt rs imm)
  else if op = 0x2B then some (.sw rt rs imm)
  else none

/-! ### DECODE -/

/-- What the CORE makes of a word (30_encoding R87): an instruction, or one of the two rejections. -/
inductive Decoded where
  | invalid
  | refused
  | instr (i : Instr)
deriving DecidableEq, Repr

/-- A rejected or ill-formed decoding is `invalid` (30_encoding R86, R87). -/
def Decoded.ofOption : Option Instr → Decoded
  | some i => .instr i
  | none => .invalid

/-- DECODE(raw, pc) of the instruction set a launch names, with the well-formedness check (30_encoding R81, R86, R87).
The `op` of a descriptor word is its top nine bits (log 6). -/
def decodeWord (isa : Isa) (raw pc : Word) : Decoded :=
  match isa with
  | .fixture => Decoded.ofOption (decodeFixture raw)
  | .descriptor _ => Decoded.ofOption (classify (unpackDescriptor raw (raw >>> 23)))
  | .external key =>
    match Config.decode key raw pc with
    | .invalid => .invalid
    | .refused => .refused
    | .ok d => Decoded.ofOption (classify d)

/-- The decoder on the stored words of one instruction: a fixture word, or a descriptor word followed by its `op`. -/
def decode : List Word → Option Instr
  | [w] => decodeFixture w
  | [head, op] => classify (unpackDescriptor head op)
  | _ => none

/-- The instruction the decoder reads from the opcode table's word (see the fixed names). A row of fewer than 32 bits
is a class row, whose bits are the low bits of a descriptor word (30_encoding R85); the others are fixture words. -/
def decodeTableWord (nbits w : Nat) : Option Instr :=
  if nbits < 32 then decode [BitVec.ofNat 32 (w % 2 ^ nbits), 0] else decode [BitVec.ofNat 32 w]

/-! ### The encoder -/

/-- The 6-bit field of an optional register (log 6). -/
def packReg : Option RegIdx → BitVec 6
  | none => 0
  | some r => BitVec.ofNat 6 (r.val + 1)

/-- The 2-bit field of an access size (log 6). -/
def packSize (n : Nat) : BitVec 2 := if n = 1 then 0 else if n = 2 then 1 else 2

/-- A descriptor word with the given class vector, size field and registers (log 6). -/
def packHead (classVector : BitVec 3) (size : BitVec 2) (src1 src2 dst : Option RegIdx) : Word :=
  0#9 ++ size ++ packReg dst ++ packReg src2 ++ packReg src1 ++ classVector

/-- A fixture R-type word (95_test_vectors 1.2). -/
def packR (rs rt rd sa : BitVec 5) (fn : BitVec 6) : Word := 0#6 ++ rs ++ rt ++ rd ++ sa ++ fn

/-- A fixture I-type word (95_test_vectors 1.2). -/
def packI (op : BitVec 6) (rs rt : BitVec 5) (imm : BitVec 16) : Word := op ++ rs ++ rt ++ imm

/-- A fixture J-type word (95_test_vectors 1.2). -/
def packJ (op : BitVec 6) (idx : BitVec 26) : Word := op ++ idx

/-- The words of a well-formed instruction: class vectors from 30_encoding R85, fixture words from 95_test_vectors
1.2. -/
def encode : Instr → List Word
  | .other s1 s2 t op => [packHead 0b000 0 s1 s2 t, op]
  | .jump s1 s2 t op => [packHead 0b001 0 s1 s2 t, op]
  | .store s1 s2 t n op => [packHead 0b010 (packSize n) s1 s2 t, op]
  | .load s1 s2 t n op => [packHead 0b100 (packSize n) s1 s2 t, op]
  | .addu rd rs rt => [packR rs rt rd 0 0x21]
  | .sll rd rt sa => [packR 0 rt rd sa 0x00]
  | .jr rs => [packR rs 0 0 0 0x08]
  | .addiu rt rs imm => [packI 0x09 rs rt imm]
  | .beq rs rt imm => [packI 0x04 rs rt imm]
  | .bne rs rt imm => [packI 0x05 rs rt imm]
  | .j idx => [packJ 0x02 idx]
  | .jal idx => [packJ 0x03 idx]
  | .lw rt rs imm => [packI 0x23 rs rt imm]
  | .sw rt rs imm => [packI 0x2B rs rt imm]

end Sys2Proof
end

