-- ==== Sys2Proof/Machine/Geometry.lean ====
section
/-!
DEFINITION. The constants derived from the BTB configuration (41_branch_predictor R120) and its legality check (R121).
-/

namespace Sys2Proof

/-- SETS = BTB_SIZE / BTB_WAYS (41_branch_predictor R120). -/
def CoreConfig.sets (c : CoreConfig) : Nat := c.btbSize / c.btbWays

/-- S = log2(SETS) (41_branch_predictor R120). -/
def CoreConfig.setBits (c : CoreConfig) : Nat := Nat.log2 c.sets

/-- set_mask = SETS - 1 (41_branch_predictor R120). -/
def CoreConfig.setMask (c : CoreConfig) : Nat := c.sets - 1

/-- mean_state = 2^(B-1) (41_branch_predictor R120). -/
def CoreConfig.meanState (c : CoreConfig) : Nat := 2 ^ (c.predictionBits - 1)

/-- default_state = mean_state - 1, weakly not taken (41_branch_predictor R120). -/
def CoreConfig.defaultState (c : CoreConfig) : Nat := c.meanState - 1

/-- max_state = 2 * mean_state - 1 (41_branch_predictor R120). -/
def CoreConfig.maxState (c : CoreConfig) : Nat := 2 * c.meanState - 1

/-- The number of counters of an entry, 2^L (41_branch_predictor R129). -/
def CoreConfig.tableSize (c : CoreConfig) : Nat := 2 ^ c.predictionLevel

/-- pattern_mask = 2^L - 1 (41_branch_predictor R120). -/
def CoreConfig.patternMask (c : CoreConfig) : Nat := c.tableSize - 1

/-- A power of two: 1, 2, 4, ... (41_branch_predictor R121 condition 3). -/
def isPowerOfTwo (n : Nat) : Bool := n != 0 && 2 ^ Nat.log2 n == n

/-- The number of the first condition of 41_branch_predictor R121 that the configuration fails, if any. -/
def CoreConfig.firstFailure (c : CoreConfig) : Option Nat :=
  if ¬ (0 < c.btbSize ∧ 0 < c.btbWays) then some 1
  else if c.btbSize % c.btbWays ≠ 0 then some 2
  else if ¬ isPowerOfTwo (c.btbSize / c.btbWays) then some 3
  else if ¬ (1 ≤ c.predictionBits ∧ c.predictionBits ≤ 32) then some 4
  else if ¬ (c.predictionLevel ≤ 16) then some 5
  else if ¬ (1 ≤ c.branchIpBits ∧ c.branchIpBits ≤ 32) then some 6
  else none

/-- `LaunchConfig` (70_reset R303): the configuration is legal. -/
def CoreConfig.legal (c : CoreConfig) : Bool := c.firstFailure == none

end Sys2Proof
end

