-- ==== Sys2Proof/Machine/State.lean ====
section
/-!
DEFINITION. The state of the CORE (10_state), as plain data, its reset (70_reset R301), and the reasons a step stops.
-/

namespace Sys2Proof.Machine

/-! ### Ports and what they carry -/

/-- The five stages (43_stages R180). -/
inductive Stage where
  | fetch
  | decode
  | execute
  | memory
  | writeback
deriving DecidableEq, Repr

/-- The 13 ports of 40_port_fabric R101, by name. -/
inductive PortName where
  | fetch2Decode
  | decode2FetchStall
  | decode2Execute
  | execute2DecodeStall
  | execute2Memory
  | memory2ExecuteStall
  | memory2Writeback
  | writeback2MemoryStall
  | memory2FetchFlush
  | memory2DecodeFlush
  | memory2ExecuteFlush
  | memory2MemoryFlush
  | memory2FetchTarget
deriving DecidableEq, Repr

/-- One element held by a port (40_port_fabric R100). -/
structure Entry (α : Type) where
  cycleWritten : Nat
  value : α
deriving DecidableEq, Repr

/-- A port's FIFO queue, oldest entry first (40_port_fabric R100). -/
abbrev Port (α : Type) := List (Entry α)

/-- The fetch packet (30_encoding R88). -/
structure IfIdData where
  raw : Word
  pc : Word
  predictedTaken : Bool
  predictedTarget : Word
deriving DecidableEq, Repr

/-- Why a record is poisoned (30_encoding R89 `poison`). -/
inductive Poison where
  | invalidInstruction
  | refusedInstruction
deriving DecidableEq, Repr

/-- The descriptor and poison of a record (30_encoding R89): an instruction, or the inert descriptor of a rejected
word (43_stages R193). -/
inductive Body where
  | live (i : Instr)
  | poisoned (code : Poison)
deriving DecidableEq, Repr

/-- The instruction record that travels ID to EX to MEM to WB (30_encoding R89). `result` holds the fields Execute
sets; it is `none` until Execute has run, and in a poisoned record (log 13). -/
structure InstrRec where
  body : Body
  raw : Word
  pc : Word
  predictedTaken : Bool
  predictedTarget : Word
  vSrc1 : DWord
  vSrc2 : DWord
  result : Option ExecOut
deriving DecidableEq, Repr

/-! ### Branch predictor -/

/-- A BPEntry (41_branch_predictor R129): `stateTable[k]` for k in 0..2^L - 1. -/
structure BpEntry where
  stateTable : List Nat
  currentPattern : Nat
  target : Word
deriving DecidableEq, Repr

/-- One set of the BTB, its lists indexed by way: the tags (`none` when the valid bit is false, log 11), the BPEntries,
and the recency order of the ways, least recently used first (10_state R29 to R31). -/
structure BtbSet where
  tags : List (Option Nat)
  data : List BpEntry
  lru : List Nat
deriving DecidableEq, Repr

/-- The BTB, indexed by set. -/
abbrev Btb := List BtbSet

/-! ### Memory, status, reference model, outputs -/

/-- Memory: the cells that differ from what an unlisted address reads as, addresses strictly rising
(20_memory R60, log 3). -/
abbrev Memory := List Host.Cell

/-- A fatal with its recorded information (60_exceptions R281). -/
inductive Fatal where
  /-- construction: the number of the failing condition of 41_branch_predictor R121 -/
  | configInvalid (condition : Nat)
  /-- construction: a port end without its partner, a duplicate end or a type mismatch -/
  | portUnpaired (port : PortName)
  /-- a second write to one port in one cycle -/
  | portBandwidth (port : PortName)
  /-- Fetch sees a flush with no target entry -/
  | portProtocol (port : PortName)
  /-- no writeback for WATCHDOG_LIMIT cycles: the cycle -/
  | deadlock (cycle : Nat)
  /-- the CORE's record and REF's (`none` where REF has no record, log 15) -/
  | checkerMismatch (core : RetireRecord) (ref : Option RetireRecord)
  | invalidInstruction (pc : Word)
  | refusedInstruction (pc : Word)
  /-- the address and the access size -/
  | misaligned (addr : Word) (size : Nat)
deriving DecidableEq, Repr

/-- run_status (10_state R40). -/
inductive RunStatus where
  | running
  | done
  | faulted (f : Fatal)
deriving DecidableEq, Repr

/-- The state of the reference model (45_driver R269): START_PC, RF_INIT and MEM_INIT at launch. The canonical REF moves
the first four fields; any other REF keeps them at their launch values and moves only `steps`, the count of its steps,
which the canonical one does not read (log 16). -/
structure RefState where
  pcf : Word
  xf : Vector Word 32
  hilof : DWord
  memf : Memory
  steps : Nat
deriving DecidableEq, Repr

/-- A stage's status in a cycle (43_stages R216). -/
inductive StageStatus where
  | stalled
  | flushed
  | idle
  | fetched (pc : Word)
  | issued (pc : Word)
  | hazard (pc : Word)
  | executed (pc : Word)
  | memDone (pc : Word)
  | mispredicted (pc target : Word)
  | retired (pc : Word)
deriving DecidableEq, Repr

/-! ### The state -/

/-- Everything the spec gives the CORE (10_state R42), its outputs (45_driver R274), and `acting`, the model's own
marker of the stage that acts inside a cycle (log 7). -/
structure State where
  /-- configuration record, read-only (10_state R36) -/
  config : CoreConfig
  /-- general registers (10_state R20); slot 0 is never read or written (R21) -/
  x : Vector Word 32
  /-- the HI/LO pair (10_state R22) -/
  hilo : DWord
  /-- scoreboard, `true` = valid (10_state R24) -/
  sb : Vector Bool 33
  /-- Fetch's program counter (10_state R25) -/
  pc : Word
  /-- `id_busy` and `id_buf` (10_state R27): `some` while busy -/
  idBuf : Option IfIdData
  fetch2Decode : Port IfIdData
  decode2FetchStall : Port Bool
  decode2Execute : Port InstrRec
  execute2DecodeStall : Port Bool
  execute2Memory : Port InstrRec
  memory2ExecuteStall : Port Bool
  memory2Writeback : Port InstrRec
  writeback2MemoryStall : Port Bool
  memory2FetchFlush : Port Bool
  memory2DecodeFlush : Port Bool
  memory2ExecuteFlush : Port Bool
  memory2MemoryFlush : Port Bool
  memory2FetchTarget : Port Word
  /-- BTB tags, recency order and data (10_state R29 to R31) -/
  btb : Btb
  /-- data and program memory (10_state R32) -/
  mem : Memory
  /-- 10_state R37 -/
  cycle : Nat
  /-- 10_state R38 -/
  executedInstrs : Nat
  /-- 10_state R39 -/
  lastWritebackCycle : Nat
  /-- 10_state R40 -/
  runStatus : RunStatus
  /-- the checker's reference model (45_driver R269) -/
  ref : RefState
  /-- the stage statuses of the current or last cycle (43_stages R216); `none` where the stage has not acted in it -/
  ifStatus : Option StageStatus
  idStatus : Option StageStatus
  exStatus : Option StageStatus
  memStatus : Option StageStatus
  wbStatus : Option StageStatus
  /-- the retire records emitted so far, oldest first (45_driver R268) -/
  retireLog : List RetireRecord
  /-- the stage that is acting (the model's own, log 7) -/
  acting : Stage
deriving DecidableEq, Repr

/-! ### Launch and reset -/

/-- What the host hands over at launch (45_driver R272): the configuration, MEM_INIT (as the cells that differ from
an unlisted address) and RF_INIT. Entry 0 of `rfInit` is not used. -/
structure Launch where
  config : CoreConfig
  memInit : Memory
  rfInit : Vector Word 32
  hiloInit : DWord
deriving DecidableEq, Repr

/-- The BPEntry at reset (10_state R31). -/
def BpEntry.reset (c : CoreConfig) : BpEntry where
  stateTable := List.replicate c.tableSize c.defaultState
  currentPattern := 0
  target := 0

/-- A set of the BTB at reset (10_state R29 to R31). -/
def BtbSet.reset (c : CoreConfig) : BtbSet where
  tags := List.replicate c.btbWays none
  data := List.replicate c.btbWays (BpEntry.reset c)
  lru := List.range c.btbWays

/-- The reset state of a launch: the values of 70_reset R301. -/
def State.ofLaunch (l : Launch) : State where
  config := l.config
  x := l.rfInit.set 0 0
  hilo := l.hiloInit
  sb := Vector.replicate 33 true
  pc := l.config.startPc
  idBuf := none
  fetch2Decode := []
  decode2FetchStall := []
  decode2Execute := []
  execute2DecodeStall := []
  execute2Memory := []
  memory2ExecuteStall := []
  memory2Writeback := []
  writeback2MemoryStall := []
  memory2FetchFlush := []
  memory2DecodeFlush := []
  memory2ExecuteFlush := []
  memory2MemoryFlush := []
  memory2FetchTarget := []
  btb := List.replicate l.config.sets (BtbSet.reset l.config)
  mem := l.memInit
  cycle := 0
  executedInstrs := 0
  lastWritebackCycle := 0
  runStatus := .running
  ref := { pcf := l.config.startPc, xf := l.rfInit.set 0 0, hilof := l.hiloInit, memf := l.memInit, steps := 0 }
  ifStatus := none
  idStatus := none
  exStatus := none
  memStatus := none
  wbStatus := none
  retireLog := []
  acting := .fetch

/-- The launch of State.reset: the spec's defaults, with the OPEN values of the fixture launch of 95_test_vectors 1.1
and no program (DESIGN CHOICE, log 1 to 5). -/
def Launch.default : Launch where
  config := { instrsToRun := 1000000, startPc := 0x00400000, isa := .fixture }
  memInit := []
  rfInit := Vector.replicate 32 0
  hiloInit := 0

/-- The machine right after reset (70_reset R301) for `Launch.default`. -/
def State.reset : State := State.ofLaunch Launch.default

/-! ### Why a step stops -/

/-- Stops of the model. A fatal of the spec is no `Fault`: it is a next state whose `runStatus` is `faulted` (log 8). -/
inductive Fault where
  /-- Raised by an instruction's meaning called while the acting stage is Fetch, where no instruction is known yet.
  Safe: the spec gives no such call, and `step` makes none. -/
  | noInstructionAtFetch
  /-- Raised by an instruction's meaning called while the acting stage holds no instruction. Safe: the spec's stage is
  then idle (43_stages R192, R199, R203, R210), and `step` makes no such call. -/
  | noInstructionAtStage (stage : Stage)
deriving DecidableEq, Repr

/-- Refusals of the model. -/
inductive Refusal where
  /-- Raised by `exec` for an instruction that has no meaning yet. Safe: the run stops. No arm uses it. -/
  | notModelled (mnemonic : String)
deriving DecidableEq, Repr

/-- The outcome of a step or of a meaning. -/
abbrev Result := Host.Outcome State Fault Refusal

end Sys2Proof.Machine
end

