-- ==== Sys2Proof/Machine/Ops.lean ====
section
/-!
DEFINITION. The named operations on status, memory, registers, scoreboard and ports that every stage shares.
-/

namespace Sys2Proof.Machine

/-! ### Fatals and sequencing -/

/-- The one entry into the faulted state: `raise Fatal(code, info)` sets run_status and nothing else
(60_exceptions R283). There is no return from it (R285). -/
def State.raise (f : Fatal) (s : State) : State := { s with runStatus := .faulted f }

/-- The next statement of a stage: it does not run once a fatal has been raised (60_exceptions R283). -/
def State.andThen (s : State) (f : State → State) : State :=
  match s.runStatus with
  | .running => f s
  | .done => s
  | .faulted _ => s

/-- The next stage of a cycle: it does not run once the run has ended (60_exceptions R283). -/
def andThenStage (r : Result) (f : State → Result) : Result :=
  match r with
  | .next s =>
    match s.runStatus with
    | .running => f s
    | .done => .next s
    | .faulted _ => .next s
  | .fault e => .fault e
  | .refused e => .refused e

/-- The number of a fatal (60_exceptions R281). -/
def Fatal.code : Fatal → Nat
  | .configInvalid _ => 1
  | .portUnpaired _ => 2
  | .portBandwidth _ => 3
  | .portProtocol _ => 4
  | .deadlock _ => 5
  | .checkerMismatch _ _ => 6
  | .invalidInstruction _ => 7
  | .refusedInstruction _ => 8
  | .misaligned _ _ => 9

/-- The process exit status the host derives from the end of a run (45_driver R272, decision D23). -/
def RunStatus.exitStatus : RunStatus → Option Nat
  | .running => none
  | .done => some 0
  | .faulted _ => some 1

/-! ### Memory (20_memory) -/

/-- What an address that memory does not list reads as (log 3). -/
def unlistedByte : Byte := 0

/-- The byte at an address (20_memory R60). -/
def readByte : Memory → Nat → Byte
  | [], _ => unlistedByte
  | (a, b) :: m, addr => if a = addr then b else readByte m addr

/-- Store one byte and keep the canonical form. -/
def writeByte : Memory → Nat → Byte → Memory
  | [], addr, v => if v = unlistedByte then [] else [(addr, v)]
  | (a, b) :: m, addr, v =>
    if addr < a then (if v = unlistedByte then (a, b) :: m else (addr, v) :: (a, b) :: m)
    else if addr = a then (if v = unlistedByte then m else (addr, v) :: m)
    else (a, b) :: writeByte m addr v

/-- Every listed address of `m` is above `lo` (when given), below 2^32, in rising order, and no entry equals an
unlisted byte. -/
def memoryOkAbove : Option Nat → Memory → Bool
  | _, [] => true
  | lo, (a, b) :: m =>
    (match lo with | none => true | some l => decide (l < a)) && decide (a < 2 ^ 32) && decide (b ≠ unlistedByte)
      && memoryOkAbove (some a) m

/-- The canonical form of memory: equal memories are equal data. -/
def Memory.wf (m : Memory) : Bool := memoryOkAbove none m

/-- The bytes of an access at `addr`, in address order, addresses modulo 2^32 (20_memory R61, R62). -/
def accessAddrs (addr : Word) (n : Nat) : List Nat := (List.range n).map fun k => (addr + BitVec.ofNat 32 k).toNat

/-- The value of bytes given least significant first. -/
def assembleBytes : List Byte → Word
  | [] => 0
  | b :: bs => (assembleBytes bs <<< 8) ||| b.setWidth 32

/-- The low `n` bytes of a value, least significant first. -/
def splitBytes (n : Nat) (v : Word) : List Byte := (List.range n).map fun k => v.extractLsb' (8 * k) 8

/-- Bytes in address order to least-significant-first order and back (20_memory R63). -/
def inEndianOrder (e : Endian) (bs : List Byte) : List Byte :=
  match e with
  | .little => bs
  | .big => bs.reverse

/-- An aligned access: `addr mod n = 0` (20_memory R64). -/
def aligned (addr : Word) (n : Nat) : Bool := addr.toNat % n == 0

/-- An access the MISALIGNED_POLICY lets happen (20_memory R64). -/
def accessAllowed (c : CoreConfig) (addr : Word) (n : Nat) : Bool :=
  match c.misalignedPolicy with
  | .fault => aligned addr n
  | .bytewise => true

/-- The value an allowed MemRead returns, zero-extended to 32 bits (20_memory R61, R63). -/
def memValue (c : CoreConfig) (m : Memory) (addr : Word) (n : Nat) : Word :=
  assembleBytes (inEndianOrder c.endian ((accessAddrs addr n).map (readByte m)))

/-- MemRead (20_memory R61, R64). -/
def memRead (c : CoreConfig) (m : Memory) (addr : Word) (n : Nat) : Except Fatal Word :=
  if accessAllowed c addr n then .ok (memValue c m addr n) else .error (.misaligned addr n)

/-- Store bytes at the given addresses, in order. -/
def writeBytes : Memory → List (Nat × Byte) → Memory
  | m, [] => m
  | m, (a, b) :: rest => writeBytes (writeByte m a b) rest

/-- The memory after an allowed MemWrite (20_memory R62, R63). -/
def memStored (c : CoreConfig) (m : Memory) (addr : Word) (n : Nat) (v : Word) : Memory :=
  writeBytes m ((accessAddrs addr n).zip (inEndianOrder c.endian (splitBytes n v)))

/-- MemWrite (20_memory R62, R64). -/
def memWrite (c : CoreConfig) (m : Memory) (addr : Word) (n : Nat) (v : Word) : Except Fatal Memory :=
  if accessAllowed c addr n then .ok (memStored c m addr n v) else .error (.misaligned addr n)

/-- The low `8 n` bits of a value (20_memory R62). -/
def lowBytes (n : Nat) (v : Word) : Word := assembleBytes (splitBytes n v)

/-! ### Register file (10_state R20 to R23, 42_scoreboard R164, R165) -/

/-- The value of a register: 0 for register 0, all 64 bits for HI/LO (42_scoreboard R164). -/
def readReg (x : Vector Word 32) (hilo : DWord) (r : RegIdx) : DWord :=
  if r.val = 0 then 0 else if h : r.val < 32 then wideWord x[r.val] else hilo

/-- The value of a source operand; an absent one reads 0 (42_scoreboard R164). -/
def readSource (x : Vector Word 32) (hilo : DWord) : Option RegIdx → DWord
  | none => 0
  | some r => readReg x hilo r

/-- The general registers after a write; register 0 and HI/LO leave them as they are (42_scoreboard R165). -/
def writeGpr (x : Vector Word 32) (dst : Option RegIdx) (v : DWord) : Vector Word 32 :=
  match dst with
  | none => x
  | some r => if r.val = 0 then x else if h : r.val < 32 then x.set r.val (lowWord v) else x

/-- The HI/LO pair after a write (42_scoreboard R165). -/
def writeHilo (hilo : DWord) (dst : Option RegIdx) (v : DWord) : DWord :=
  match dst with
  | none => hilo
  | some r => if r.val = 32 then v else hilo

/-- A result in the width of its destination: 32 bits for 0..31, 64 bits for HI/LO (30_encoding R84). -/
def fitDst (dst : Option RegIdx) (v : DWord) : DWord :=
  match dst with
  | none => v
  | some r => if r.val = 32 then v else wideWord (lowWord v)

/-! ### Scoreboard (42_scoreboard R160 to R163) -/

/-- A tracked register: 1..32, and 0 when R0_TRACKED (42_scoreboard R160). -/
def tracked (c : CoreConfig) (r : RegIdx) : Bool := r.val != 0 || c.r0Tracked

/-- `check` (42_scoreboard R161). -/
def sbCheck (c : CoreConfig) (sb : Vector Bool 33) : Option RegIdx → Bool
  | none => true
  | some r => !tracked c r || sb[r.val]

/-- Set the bit of a tracked register; nothing for an untracked one or `none` (42_scoreboard R162, R163). -/
def sbSet (c : CoreConfig) (sb : Vector Bool 33) (bit : Bool) : Option RegIdx → Vector Bool 33
  | none => sb
  | some r => if tracked c r then sb.set r.val bit else sb

/-- `invalidate` (42_scoreboard R162). -/
def State.invalidate (r : Option RegIdx) (s : State) : State := { s with sb := sbSet s.config s.sb false r }

/-- `validate` (42_scoreboard R163). -/
def State.validate (r : Option RegIdx) (s : State) : State := { s with sb := sbSet s.config s.sb true r }

/-- `write_dst`: write the register and validate it (42_scoreboard R165). -/
def State.writeDst (dst : Option RegIdx) (v : DWord) (s : State) : State :=
  ({ s with x := writeGpr s.x dst v, hilo := writeHilo s.hilo dst v }).validate dst

/-! ### Ports (40_port_fabric R102 to R107, R112) -/

/-- Latency of every port (00_scope R7). -/
def portLatency : Nat := 1

/-- A write in cycle `t`: the queue with the entry at its tail, or `none` when an entry of this cycle is already
there (40_port_fabric R102). -/
def portWrite {α : Type} (t : Nat) (v : α) (q : Port α) : Option (Port α) :=
  if q.any (fun e => e.cycleWritten == t) then none else some (q ++ [{ cycleWritten := t, value := v }])

/-- A read in cycle `t`: the oldest entry if it is ready, and the queue without it (40_port_fabric R103). -/
def portRead {α : Type} (t : Nat) : Port α → Option (α × Port α)
  | [] => none
  | e :: q => if e.cycleWritten + portLatency ≤ t then some (e.value, q) else none

/-- The values a flush in cycle `t` removes: those written before `t`, oldest first (40_port_fabric R105). -/
def portFlushed {α : Type} (t : Nat) (q : Port α) : List α :=
  (q.filter fun e => decide (e.cycleWritten < t)).map Entry.value

/-- The queue after a flush in cycle `t` (40_port_fabric R105). -/
def portKept {α : Type} (t : Nat) (q : Port α) : Port α := q.filter fun e => decide (¬ e.cycleWritten < t)

/-- `raised` of a Bool port in cycle `t` (40_port_fabric R112). -/
def portRaised (t : Nat) (q : Port Bool) : Bool :=
  match portRead t q with
  | none => false
  | some (v, _) => v

/-- The queue a read in cycle `t` leaves (40_port_fabric R103). -/
def portAfterRead {α : Type} (t : Nat) (q : Port α) : Port α :=
  match portRead t q with
  | none => q
  | some (_, rest) => rest

/-! Each port's write into the state: the entry is appended, or PORT_BANDWIDTH is raised (40_port_fabric R102). -/

/-- Write P1. -/
def State.putFetch2Decode (v : IfIdData) (s : State) : State :=
  match portWrite s.cycle v s.fetch2Decode with
  | some q => { s with fetch2Decode := q }
  | none => s.raise (.portBandwidth .fetch2Decode)

/-- Write P2. -/
def State.putDecode2FetchStall (s : State) : State :=
  match portWrite s.cycle true s.decode2FetchStall with
  | some q => { s with decode2FetchStall := q }
  | none => s.raise (.portBandwidth .decode2FetchStall)

/-- Write P3. -/
def State.putDecode2Execute (v : InstrRec) (s : State) : State :=
  match portWrite s.cycle v s.decode2Execute with
  | some q => { s with decode2Execute := q }
  | none => s.raise (.portBandwidth .decode2Execute)

/-- Write P5. -/
def State.putExecute2Memory (v : InstrRec) (s : State) : State :=
  match portWrite s.cycle v s.execute2Memory with
  | some q => { s with execute2Memory := q }
  | none => s.raise (.portBandwidth .execute2Memory)

/-- Write P7. -/
def State.putMemory2Writeback (v : InstrRec) (s : State) : State :=
  match portWrite s.cycle v s.memory2Writeback with
  | some q => { s with memory2Writeback := q }
  | none => s.raise (.portBandwidth .memory2Writeback)

/-- Write P9. -/
def State.putFetchFlush (s : State) : State :=
  match portWrite s.cycle true s.memory2FetchFlush with
  | some q => { s with memory2FetchFlush := q }
  | none => s.raise (.portBandwidth .memory2FetchFlush)

/-- Write P10. -/
def State.putDecodeFlush (s : State) : State :=
  match portWrite s.cycle true s.memory2DecodeFlush with
  | some q => { s with memory2DecodeFlush := q }
  | none => s.raise (.portBandwidth .memory2DecodeFlush)

/-- Write P11. -/
def State.putExecuteFlush (s : State) : State :=
  match portWrite s.cycle true s.memory2ExecuteFlush with
  | some q => { s with memory2ExecuteFlush := q }
  | none => s.raise (.portBandwidth .memory2ExecuteFlush)

/-- Write P12. -/
def State.putMemoryFlush (s : State) : State :=
  match portWrite s.cycle true s.memory2MemoryFlush with
  | some q => { s with memory2MemoryFlush := q }
  | none => s.raise (.portBandwidth .memory2MemoryFlush)

/-- Write P13. -/
def State.putFetchTarget (a : Word) (s : State) : State :=
  match portWrite s.cycle a s.memory2FetchTarget with
  | some q => { s with memory2FetchTarget := q }
  | none => s.raise (.portBandwidth .memory2FetchTarget)

/-! ### Derived outputs -/

/-- IPC, the exact rational, only at the end of a `done` run of at least one cycle (10_state R41, 45_driver R264,
R265). -/
def State.ipc (s : State) : Option Rat :=
  match s.runStatus with
  | .done => if s.cycle = 0 then none else some ((s.executedInstrs : Rat) / (s.cycle : Rat))
  | .running => none
  | .faulted _ => none

/-- The source's four stage states (43_stages R216). -/
inductive SourceState where
  | idle
  | working
  | stalling
  | flushing
deriving DecidableEq, Repr

/-- The mapping of a stage status onto the source's states (43_stages R216). -/
def StageStatus.sourceState : StageStatus → SourceState
  | .stalled => .stalling
  | .flushed => .flushing
  | .idle => .idle
  | .fetched _ => .working
  | .issued _ => .working
  | .hazard _ => .stalling
  | .executed _ => .working
  | .memDone _ => .working
  | .mispredicted _ _ => .working
  | .retired _ => .working

/-- The packed layout of a fetch packet (30_encoding R88). -/
def IfIdData.pack (p : IfIdData) : BitVec 97 :=
  p.predictedTarget ++ BitVec.ofBool p.predictedTaken ++ p.pc ++ p.raw

/-- The fetch packet of a packed bit vector (30_encoding R88). -/
def unpackPacket (v : BitVec 97) : IfIdData where
  raw := v.extractLsb' 0 32
  pc := v.extractLsb' 32 32
  predictedTaken := v.getLsbD 64
  predictedTarget := v.extractLsb' 65 32

end Sys2Proof.Machine
end

