-- ==== Sys2Proof/Machine/Operands.lean ====
section
/-!
DEFINITION. The operand forms: which registers and how many bytes an instruction names (30_encoding R82, R85, R92;
95_test_vectors 1.2), and the same for a record's body.
-/

namespace Sys2Proof

/-- A 5-bit register field as a register index. -/
def gpr (r : BitVec 5) : RegIdx := ⟨r.toNat, Nat.lt_trans r.isLt (by decide)⟩

/-- `src1` (30_encoding R82; 95_test_vectors 1.2). -/
def Instr.src1 : Instr → Option RegIdx
  | .other s1 _ _ _ => s1
  | .jump s1 _ _ _ => s1
  | .store s1 _ _ _ _ => s1
  | .load s1 _ _ _ _ => s1
  | .addu _ rs _ => some (gpr rs)
  | .sll _ rt _ => some (gpr rt)
  | .jr rs => some (gpr rs)
  | .addiu _ rs _ => some (gpr rs)
  | .beq rs _ _ => some (gpr rs)
  | .bne rs _ _ => some (gpr rs)
  | .j _ => none
  | .jal _ => none
  | .lw _ rs _ => some (gpr rs)
  | .sw _ rs _ => some (gpr rs)

/-- `src2`; a store's data register (30_encoding R82; 95_test_vectors 1.2). -/
def Instr.src2 : Instr → Option RegIdx
  | .other _ s2 _ _ => s2
  | .jump _ s2 _ _ => s2
  | .store _ s2 _ _ _ => s2
  | .load _ s2 _ _ _ => s2
  | .addu _ _ rt => some (gpr rt)
  | .sll _ _ _ => none
  | .jr _ => none
  | .addiu _ _ _ => none
  | .beq _ rt _ => some (gpr rt)
  | .bne _ rt _ => some (gpr rt)
  | .j _ => none
  | .jal _ => none
  | .lw _ _ _ => none
  | .sw rt _ _ => some (gpr rt)

/-- `dst` (30_encoding R82; 95_test_vectors 1.2). -/
def Instr.dst : Instr → Option RegIdx
  | .other _ _ t _ => t
  | .jump _ _ t _ => t
  | .store _ _ t _ _ => t
  | .load _ _ t _ _ => t
  | .addu rd _ _ => some (gpr rd)
  | .sll rd _ _ => some (gpr rd)
  | .jr _ => none
  | .addiu rt _ _ => some (gpr rt)
  | .beq _ _ _ => none
  | .bne _ _ _ => none
  | .j _ => none
  | .jal _ => some (gpr 31)
  | .lw rt _ _ => some (gpr rt)
  | .sw _ _ _ => none

/-- `is_load` (30_encoding R85). -/
def Instr.isLoad : Instr → Bool
  | .load _ _ _ _ _ => true
  | .lw _ _ _ => true
  | .other _ _ _ _ => false
  | .jump _ _ _ _ => false
  | .store _ _ _ _ _ => false
  | .addu _ _ _ => false
  | .sll _ _ _ => false
  | .jr _ => false
  | .addiu _ _ _ => false
  | .beq _ _ _ => false
  | .bne _ _ _ => false
  | .j _ => false
  | .jal _ => false
  | .sw _ _ _ => false

/-- `is_store` (30_encoding R85). -/
def Instr.isStore : Instr → Bool
  | .store _ _ _ _ _ => true
  | .sw _ _ _ => true
  | .other _ _ _ _ => false
  | .jump _ _ _ _ => false
  | .load _ _ _ _ _ => false
  | .addu _ _ _ => false
  | .sll _ _ _ => false
  | .jr _ => false
  | .addiu _ _ _ => false
  | .beq _ _ _ => false
  | .bne _ _ _ => false
  | .j _ => false
  | .jal _ => false
  | .lw _ _ _ => false

/-- `is_jump` (30_encoding R85). -/
def Instr.isJump : Instr → Bool
  | .jump _ _ _ _ => true
  | .jr _ => true
  | .beq _ _ _ => true
  | .bne _ _ _ => true
  | .j _ => true
  | .jal _ => true
  | .other _ _ _ _ => false
  | .store _ _ _ _ _ => false
  | .load _ _ _ _ _ => false
  | .addu _ _ _ => false
  | .sll _ _ _ => false
  | .addiu _ _ _ => false
  | .lw _ _ _ => false
  | .sw _ _ _ => false

/-- `mem_size`; 0 for an instruction of class OTHER or JUMP, whose size no rule reads (30_encoding R82). -/
def Instr.memSize : Instr → Nat
  | .store _ _ _ n _ => n
  | .load _ _ _ n _ => n
  | .lw _ _ _ => 4
  | .sw _ _ _ => 4
  | .other _ _ _ _ => 0
  | .jump _ _ _ _ => 0
  | .addu _ _ _ => 0
  | .sll _ _ _ => 0
  | .jr _ => 0
  | .addiu _ _ _ => 0
  | .beq _ _ _ => 0
  | .bne _ _ _ => 0
  | .j _ => 0
  | .jal _ => 0

namespace Machine

/-- `src1` of a record; the inert descriptor of a rejected word names no register (43_stages R193). -/
def Body.src1 : Body → Option RegIdx
  | .live i => i.src1
  | .poisoned _ => none

/-- `src2` of a record (43_stages R193). -/
def Body.src2 : Body → Option RegIdx
  | .live i => i.src2
  | .poisoned _ => none

/-- `dst` of a record (43_stages R193). -/
def Body.dst : Body → Option RegIdx
  | .live i => i.dst
  | .poisoned _ => none

/-- The fields Execute sets, as a reader sees them: a free value while Execute has not set them (30_encoding R89,
log 13). -/
def InstrRec.out (r : InstrRec) : ExecOut :=
  match r.result with
  | some o => o
  | none => Config.unexecuted r.raw r.pc r.vSrc1 r.vSrc2

end Machine

end Sys2Proof
end

