-- ==== Sys2Proof/Machine/Construct.lean ====
section
/-!
DEFINITION. Construction (45_driver R260), port pairing (40_port_fabric R108), the command line's launch (R273), and
how a program is placed.
-/

namespace Sys2Proof.Machine

/-! ### Port pairing (40_port_fabric R108) -/

/-- The type of a port's values (40_port_fabric R101). -/
inductive PortType where
  | packet
  | record
  | signal
  | address
deriving DecidableEq, Repr

/-- One declared end of a port (40_port_fabric R108). -/
structure PortEnd where
  name : PortName
  isWriter : Bool
  type : PortType
deriving DecidableEq, Repr

/-- The 13 ports of 40_port_fabric R101 with their value types. -/
def corePorts : List (PortName × PortType) :=
  [(.fetch2Decode, .packet), (.decode2FetchStall, .signal), (.decode2Execute, .record), (.execute2DecodeStall, .signal),
   (.execute2Memory, .record), (.memory2ExecuteStall, .signal), (.memory2Writeback, .record),
   (.writeback2MemoryStall, .signal), (.memory2FetchFlush, .signal), (.memory2DecodeFlush, .signal),
   (.memory2ExecuteFlush, .signal), (.memory2MemoryFlush, .signal), (.memory2FetchTarget, .address)]

/-- The ends the CORE declares: a writer and a reader of each port. -/
def coreEnds : List PortEnd :=
  corePorts.flatMap fun p => [⟨p.1, true, p.2⟩, ⟨p.1, false, p.2⟩]

/-- An end has exactly one end of the other kind under its name, of the same type, and is alone of its own kind. -/
def endPaired (ends : List PortEnd) (e : PortEnd) : Bool :=
  (ends.filter fun f => f.name == e.name && f.isWriter == e.isWriter).length == 1
    && (ends.filter fun f => f.name == e.name && f.isWriter != e.isWriter) == [{ e with isWriter := !e.isWriter }]

/-- The name PORT_UNPAIRED records, if an end is not paired (40_port_fabric R108). DESIGN CHOICE (log 25): of several, the
first in the order of declaration. -/
def firstUnpaired (ends : List PortEnd) : Option PortName := (ends.find? fun e => !endPaired ends e).map PortEnd.name

/-! ### Construction (45_driver R260) -/

/-- Construction with the given port ends: the BTB check, then the pairing check, then the reset values. A failed
check ends the run before cycle 0 (45_driver R260). -/
def constructWith (ends : List PortEnd) (l : Launch) : State :=
  match l.config.firstFailure with
  | some n => (State.ofLaunch l).raise (.configInvalid n)
  | none =>
    match firstUnpaired ends with
    | some p => (State.ofLaunch l).raise (.portUnpaired p)
    | none => State.ofLaunch l

/-- Construction of the CORE (45_driver R260). -/
def construct (l : Launch) : State := constructWith coreEnds l

/-! ### The command line (45_driver R273) -/

/-- The options that reach the CORE (45_driver R273): the image of `--binary` as START_PC and MEM_INIT, `--numsteps`,
`--btb-size`, `--btb-ways`. -/
structure Options where
  startPc : Word
  image : Memory
  numsteps : Nat
  btbSize : Nat := 128
  btbWays : Nat := 4
deriving DecidableEq, Repr

/-- The launch the options map onto (45_driver R273); the fields no option sets keep their defaults. RF_INIT and the
instruction set are OPEN and come from the host. -/
def Options.launch (o : Options) (isa : Isa) (rfInit : Vector Word 32) (hiloInit : DWord) : Launch where
  config := { btbSize := o.btbSize, btbWays := o.btbWays, instrsToRun := o.numsteps, startPc := o.startPc, isa := isa }
  memInit := o.image
  rfInit := rfInit
  hiloInit := hiloInit

/-! ### Placing a program (log 10) -/

/-- Program words at consecutive addresses, in the byte order of the configuration. -/
def placeWords (c : CoreConfig) (m : Memory) (addr : Word) : List Word → Memory
  | [] => m
  | w :: ws => placeWords c (memStored c m addr 4 w) (addr + 4) ws

/-- The machine as Fetch leaves it when it has just fetched `raw`, an instruction of `isa`, at its PC: the word is in
memory (and in REF's), Decode holds its packet, predicted not taken, and the PC has moved on (43_stages R187, R188,
log 10). -/
def State.holdFetched (isa : Isa) (raw : Word) (s : State) : State :=
  { s with
    config := { s.config with isa := isa }
    mem := memStored s.config s.mem s.pc 4 raw
    ref := { s.ref with memf := memStored s.config s.ref.memf s.pc 4 raw }
    idBuf := some { raw := raw, pc := s.pc, predictedTaken := false, predictedTarget := s.pc + 4 }
    pc := s.pc + 4 }

end Sys2Proof.Machine
end

