-- ==== Sys2Proof/Machine/Predictor.lean ====
section
/-!
DEFINITION. The branch predictor: BTB tags with LRU replacement, saturating counters, lookup and update
(41_branch_predictor).
-/

namespace Sys2Proof.Machine

/-! ### Indexing (R123, R124) -/

/-- `set(a) = a & set_mask` (41_branch_predictor R123). -/
def setOf (c : CoreConfig) (a : Word) : Nat := a.toNat &&& c.setMask

/-- `tag(a) = (a mod 2^BRANCH_IP_BITS) >> S` (41_branch_predictor R124). -/
def tagOf (c : CoreConfig) (a : Word) : Nat := (a.toNat % 2 ^ c.branchIpBits) >>> c.setBits

/-- The contents of a set. A legal configuration has every set that `setOf` gives. -/
def btbSet (btb : Btb) (i : Nat) : BtbSet := btb.getD i { tags := [], data := [], lru := [] }

/-- An entry of a set, by way. -/
def btbEntry (b : BtbSet) (w : Nat) : BpEntry := b.data.getD w { stateTable := [], currentPattern := 0, target := 0 }

/-! ### Tag array and replacement (R125 to R127) -/

/-- `touch`: the way moves to the most-recently-used end, the others keep their order (41_branch_predictor R125). -/
def touchOrder (lru : List Nat) (w : Nat) : List Nat := lru.erase w ++ [w]

/-- `touch(s, w)` (41_branch_predictor R125). -/
def BtbSet.touch (b : BtbSet) (w : Nat) : BtbSet := { b with lru := touchOrder b.lru w }

/-- The first way that holds a tag, if any (41_branch_predictor R126). -/
def findWay (tags : List (Option Nat)) (tag : Nat) : Option Nat := tags.findIdx? (fun t => t == some tag)

/-- `tags.read(a)`: the hit way, if any (41_branch_predictor R126). -/
def tagHit (c : CoreConfig) (btb : Btb) (a : Word) : Option Nat := findWay (btbSet btb (setOf c a)).tags (tagOf c a)

/-- The BTB after `tags.read(a)`: a hit touches its way, a miss changes nothing (41_branch_predictor R126). -/
def tagRead (c : CoreConfig) (btb : Btb) (a : Word) : Btb :=
  match tagHit c btb a with
  | none => btb
  | some w => btb.set (setOf c a) ((btbSet btb (setOf c a)).touch w)

/-- The way `tags.write(a)` returns: the hit way, or the least recently used one (41_branch_predictor R127). -/
def writeWay (c : CoreConfig) (btb : Btb) (a : Word) : Nat :=
  match tagHit c btb a with
  | some w => w
  | none => (btbSet btb (setOf c a)).lru.headD 0

/-- A set after an allocation of `tag` in way `w` (41_branch_predictor R127); the BPEntry stays. -/
def BtbSet.allocate (b : BtbSet) (w tag : Nat) : BtbSet := ({ b with tags := b.tags.set w (some tag) }).touch w

/-- The BTB after `tags.write(a)` (41_branch_predictor R127). -/
def tagWrite (c : CoreConfig) (btb : Btb) (a : Word) : Btb :=
  match tagHit c btb a with
  | some _ => tagRead c btb a
  | none => btb.set (setOf c a) ((btbSet btb (setOf c a)).allocate (writeWay c btb a) (tagOf c a))

/-! ### Counters (R130, R133) -/

/-- The saturating step as the clamp R133 allows a model to use (41_branch_predictor R133, log 17). -/
def sat (c : CoreConfig) (v : Nat) (taken : Bool) : Nat := if taken then min (v + 1) c.maxState else v - 1

/-- The source's saturating step, on two's complement integers two bits wider than the counter
(41_branch_predictor R133). -/
def satTrick (b : Nat) (v : Nat) (taken : Bool) : Nat :=
  let mean : BitVec (b + 2) := BitVec.ofNat (b + 2) (2 ^ (b - 1))
  let u : BitVec (b + 2) := if taken then BitVec.ofNat (b + 2) v + 1 else BitVec.ofNat (b + 2) v - 1
  if u &&& (mean <<< 1) ≠ 0 then (~~~u &&& (2 * mean - 1)).toNat else u.toNat

/-- The counter that decides an entry's prediction (41_branch_predictor R130). -/
def BpEntry.counter (e : BpEntry) : Nat := e.stateTable.getD e.currentPattern 0

/-- An entry predicts taken iff its counter is at least mean_state (41_branch_predictor R130). -/
def BpEntry.predicts (c : CoreConfig) (e : BpEntry) : Bool := decide (c.meanState ≤ e.counter)

/-! ### Lookup (R131, R132) -/

/-- `predictTaken(pc)` (41_branch_predictor R131); the BTB after it is `tagRead`. -/
def predictTaken (c : CoreConfig) (btb : Btb) (pc : Word) : Bool :=
  match tagHit c btb pc with
  | none => false
  | some w => (btbEntry (btbSet btb (setOf c pc)) w).predicts c

/-- `getTarget(pc)` (41_branch_predictor R132); the BTB after it is `tagRead`. -/
def getTarget (c : CoreConfig) (btb : Btb) (pc : Word) : Word :=
  match tagHit c btb pc with
  | none => pc + 4
  | some w => (btbEntry (btbSet btb (setOf c pc)) w).target

/-! ### Update (R134 to R137) -/

/-- The history after an outcome (41_branch_predictor R137). -/
def shiftPattern (c : CoreConfig) (k : Nat) (taken : Bool) : Nat :=
  ((k <<< 1) ||| (if taken then 1 else 0)) &&& c.patternMask

/-- An entry after an update: reset on a taken update with a new target (41_branch_predictor R135), otherwise the
counter of the current pattern steps (R136), then the history shifts (R137). -/
def BpEntry.update (c : CoreConfig) (taken : Bool) (target : Word) (e : BpEntry) : BpEntry :=
  if taken && e.target != target then
    { stateTable := List.replicate c.tableSize c.defaultState, currentPattern := 0, target := target }
  else
    { e with
      stateTable := e.stateTable.set e.currentPattern (sat c e.counter taken)
      currentPattern := shiftPattern c e.currentPattern taken }

/-- A set with the entry of one way updated. -/
def BtbSet.updateEntry (c : CoreConfig) (b : BtbSet) (w : Nat) (taken : Bool) (target : Word) : BtbSet :=
  { b with data := b.data.set w ((btbEntry b w).update c taken target) }

/-- `update(actually_taken, branch_ip, target)` (41_branch_predictor R134): the tag write, then the entry's update. -/
def btbUpdate (c : CoreConfig) (btb : Btb) (taken : Bool) (branchIp target : Word) : Btb :=
  let written := tagWrite c btb branchIp
  written.set (setOf c branchIp)
    ((btbSet written (setOf c branchIp)).updateEntry c (writeWay c btb branchIp) taken target)

end Sys2Proof.Machine
end

