-- ==== Sys2Proof/Machine/Execute.lean ====
section
/-!
DEFINITION. EXECUTE (30_encoding R84): the open parameter for the class rows, and the fixture's table
(95_test_vectors 1.3) for the fixture rows. EXECUTE is pure: each is a function of the instruction, its address and
its two source values. Where the fixture table states no value ('-'), the value is free (log 14).
-/

namespace Sys2Proof.Machine

/-- The key of the open EXECUTE a launch names; the fixture names none and takes key 0 for a class instruction. -/
def isaKey : Isa → Nat
  | .fixture => 0
  | .descriptor key => key
  | .external key => key

/-- `sext_32(imm)` (95_test_vectors 1.3). -/
def sextImm (imm : BitVec 16) : Word := imm.signExtend 32

/-- The target of a taken fixture branch: `pc + 4 + (sext(imm) << 2)` (95_test_vectors 1.3). -/
def branchTarget (pc : Word) (imm : BitVec 16) : Word := pc + 4 + (sextImm imm <<< 2)

/-- The target of a fixture J-type jump: `((pc + 4) & 0xF0000000) | (idx << 2)` (95_test_vectors 1.3). -/
def jumpTarget (pc : Word) (idx : BitVec 26) : Word := ((pc + 4) &&& 0xF0000000) ||| (idx.setWidth 32 <<< 2)

/-- `addu`: v1 + v2 (95_test_vectors 1.3). -/
def executeAddu (rd rs rt : BitVec 5) (pc : Word) (v1 v2 : DWord) : ExecOut where
  newPc := pc + 4
  jumpExecuted := false
  vDst := wideWord (lowWord v1 + lowWord v2)
  memAddr := Config.unstatedAddr (.addu rd rs rt) pc v1 v2

/-- `sll`: v1 << sa (95_test_vectors 1.3). -/
def executeSll (rd rt sa : BitVec 5) (pc : Word) (v1 v2 : DWord) : ExecOut where
  newPc := pc + 4
  jumpExecuted := false
  vDst := wideWord (lowWord v1 <<< sa.toNat)
  memAddr := Config.unstatedAddr (.sll rd rt sa) pc v1 v2

/-- `jr`: to v1 (95_test_vectors 1.3). -/
def executeJr (rs : BitVec 5) (pc : Word) (v1 v2 : DWord) : ExecOut where
  newPc := lowWord v1
  jumpExecuted := true
  vDst := Config.unstatedDst (.jr rs) pc v1 v2
  memAddr := Config.unstatedAddr (.jr rs) pc v1 v2

/-- `addiu`: v1 + sext(imm) (95_test_vectors 1.3). -/
def executeAddiu (rt rs : BitVec 5) (imm : BitVec 16) (pc : Word) (v1 v2 : DWord) : ExecOut where
  newPc := pc + 4
  jumpExecuted := false
  vDst := wideWord (lowWord v1 + sextImm imm)
  memAddr := Config.unstatedAddr (.addiu rt rs imm) pc v1 v2

/-- `beq`: taken iff v1 = v2 (95_test_vectors 1.3). -/
def executeBeq (rs rt : BitVec 5) (imm : BitVec 16) (pc : Word) (v1 v2 : DWord) : ExecOut where
  newPc := if lowWord v1 = lowWord v2 then branchTarget pc imm else pc + 4
  jumpExecuted := decide (lowWord v1 = lowWord v2)
  vDst := Config.unstatedDst (.beq rs rt imm) pc v1 v2
  memAddr := Config.unstatedAddr (.beq rs rt imm) pc v1 v2

/-- `bne`: taken iff v1 ≠ v2 (95_test_vectors 1.3). -/
def executeBne (rs rt : BitVec 5) (imm : BitVec 16) (pc : Word) (v1 v2 : DWord) : ExecOut where
  newPc := if lowWord v1 ≠ lowWord v2 then branchTarget pc imm else pc + 4
  jumpExecuted := decide (lowWord v1 ≠ lowWord v2)
  vDst := Config.unstatedDst (.bne rs rt imm) pc v1 v2
  memAddr := Config.unstatedAddr (.bne rs rt imm) pc v1 v2

/-- `j` (95_test_vectors 1.3). -/
def executeJ (idx : BitVec 26) (pc : Word) (v1 v2 : DWord) : ExecOut where
  newPc := jumpTarget pc idx
  jumpExecuted := true
  vDst := Config.unstatedDst (.j idx) pc v1 v2
  memAddr := Config.unstatedAddr (.j idx) pc v1 v2

/-- `jal`: link value pc + 4 (95_test_vectors 1.3). -/
def executeJal (idx : BitVec 26) (pc : Word) (v1 v2 : DWord) : ExecOut where
  newPc := jumpTarget pc idx
  jumpExecuted := true
  vDst := wideWord (pc + 4)
  memAddr := Config.unstatedAddr (.jal idx) pc v1 v2

/-- `lw`: address v1 + sext(imm); the result is replaced at Memory (95_test_vectors 1.3). -/
def executeLw (rt rs : BitVec 5) (imm : BitVec 16) (pc : Word) (v1 v2 : DWord) : ExecOut where
  newPc := pc + 4
  jumpExecuted := false
  vDst := Config.unstatedDst (.lw rt rs imm) pc v1 v2
  memAddr := lowWord v1 + sextImm imm

/-- `sw`: address v1 + sext(imm) (95_test_vectors 1.3). -/
def executeSw (rt rs : BitVec 5) (imm : BitVec 16) (pc : Word) (v1 v2 : DWord) : ExecOut where
  newPc := pc + 4
  jumpExecuted := false
  vDst := Config.unstatedDst (.sw rt rs imm) pc v1 v2
  memAddr := lowWord v1 + sextImm imm

/-- EXECUTE of any instruction (30_encoding R84), with the key of the launch's open EXECUTE. -/
def executeInstr (key : Nat) (i : Instr) (pc : Word) (v1 v2 : DWord) : ExecOut :=
  match i with
  | .other _ _ _ _ => Config.execute key i pc v1 v2
  | .jump _ _ _ _ => Config.execute key i pc v1 v2
  | .store _ _ _ _ _ => Config.execute key i pc v1 v2
  | .load _ _ _ _ _ => Config.execute key i pc v1 v2
  | .addu rd rs rt => executeAddu rd rs rt pc v1 v2
  | .sll rd rt sa => executeSll rd rt sa pc v1 v2
  | .jr rs => executeJr rs pc v1 v2
  | .addiu rt rs imm => executeAddiu rt rs imm pc v1 v2
  | .beq rs rt imm => executeBeq rs rt imm pc v1 v2
  | .bne rs rt imm => executeBne rs rt imm pc v1 v2
  | .j idx => executeJ idx pc v1 v2
  | .jal idx => executeJal idx pc v1 v2
  | .lw rt rs imm => executeLw rt rs imm pc v1 v2
  | .sw rt rs imm => executeSw rt rs imm pc v1 v2

/-- A result in the width of the instruction's destination (30_encoding R84). -/
def fitResult (dst : Option RegIdx) (o : ExecOut) : ExecOut := { o with vDst := fitDst dst o.vDst }

end Sys2Proof.Machine
end

