-- ==== Sys2Proof/Machine/Flags.lean ====
section
/-!
DEFINITION. The conditions the stages compute. The CORE has no status flags, condition codes or predicate registers
(10_state R33); what it computes of that kind is the hazard test, the branch outcome and the misprediction test.
-/

namespace Sys2Proof.Machine

/-- The hazard test of Decode: `check(src1) and check(src2) and check(dst)` (43_stages R194). -/
def hazardFree (c : CoreConfig) (sb : Vector Bool 33) (b : Body) : Bool :=
  sbCheck c sb b.src1 && sbCheck c sb b.src2 && sbCheck c sb b.dst

/-- `actually_taken = is_jump and jump_executed` (43_stages R204). -/
def actuallyTaken (i : Instr) (o : ExecOut) : Bool := i.isJump && o.jumpExecuted

/-- The misprediction test: directions differ, or the predicted target is not the real one (43_stages R206). -/
def mispredict (r : InstrRec) (taken : Bool) (realTarget : Word) : Bool :=
  r.predictedTaken != taken || r.predictedTarget != realTarget

end Sys2Proof.Machine
end

