-- ==== Sys2Proof/Machine/Reference.lean ====
section
/-!
DEFINITION. The retire record (45_driver R268), the reference model REF and the check (R269, 43_stages R212).
-/

namespace Sys2Proof.Machine

/-- `v_dst` of a retire record: the value written, `none` when there is no destination or it is register 0
(45_driver R268). -/
def recordedDst (dst : Option RegIdx) (v : DWord) : Option DWord :=
  match dst with
  | none => none
  | some r => if r.val = 0 then none else some v

/-- The memory effect of a retire record (45_driver R268). -/
def recordedMem (b : Body) (addr : Word) (v2 : DWord) : MemEffect :=
  match b with
  | .poisoned _ => .none
  | .live i =>
    if i.isLoad then .load addr i.memSize
    else if i.isStore then .store addr i.memSize (lowBytes i.memSize (lowWord v2))
    else .none

/-- The retire record of an instruction with the given result (45_driver R268). -/
def retireRecord (b : Body) (raw pc : Word) (v2 : DWord) (o : ExecOut) : RetireRecord where
  pc := pc
  raw := raw
  newPc := o.newPc
  dst := b.dst
  vDst := recordedDst b.dst o.vDst
  mem := recordedMem b o.memAddr v2

/-- One instruction of the canonical REF on its own state, after its word has decoded to `i` (45_driver R269);
`none` where its access is misaligned under MISALIGNED_POLICY = fault (log 15). -/
def refExec (c : CoreConfig) (i : Instr) (raw : Word) (r : RefState) : Option (RetireRecord × RefState) :=
  let v1 := readSource r.xf r.hilof i.src1
  let v2 := readSource r.xf r.hilof i.src2
  let o := fitResult i.dst (executeInstr (isaKey c.isa) i r.pcf v1 v2)
  let loaded : Except Fatal ExecOut :=
    if i.isLoad then (memRead c r.memf o.memAddr i.memSize).map fun v => { o with vDst := wideWord v } else .ok o
  let stored : Except Fatal Memory :=
    if i.isStore then memWrite c r.memf o.memAddr i.memSize (lowWord v2) else .ok r.memf
  match loaded, stored with
  | .ok o', .ok m' =>
    some (retireRecord (.live i) raw r.pcf v2 o',
      { pcf := o.newPc, xf := writeGpr r.xf i.dst o'.vDst, hilof := writeHilo r.hilof i.dst o'.vDst, memf := m',
        steps := r.steps + 1 })
  | _, _ => none

/-- The launch state of a REF that keeps it (45_driver R269, log 16). -/
def RefState.start (r : RefState) : RefStart where
  startPc := r.pcf
  rfInit := r.xf
  hiloInit := r.hilof
  memInit := r.memf

/-- `REF.step()` (45_driver R269). A canonical REF whose word is misaligned, invalid or refused has no record
(log 15); any other REF gives the next record of its own, from its launch state (log 16). -/
def refStep (c : CoreConfig) (r : RefState) : Option (RetireRecord × RefState) :=
  match c.refModel with
  | .external key => some (Config.refRecord key r.start r.steps, { r with steps := r.steps + 1 })
  | .canonical =>
    match memRead c r.memf r.pcf 4 with
    | .error _ => none
    | .ok raw =>
      match decodeWord c.isa raw r.pcf with
      | .invalid => none
      | .refused => none
      | .instr i => refExec c i raw r

/-- The check of Writeback (43_stages R212): with the checker attached, REF is stepped and its record compared. -/
def State.checkRecord (rec : RetireRecord) (s : State) : State :=
  match s.config.checker with
  | .detached => s
  | .attached =>
    match refStep s.config s.ref with
    | none => s.raise (.checkerMismatch rec none)
    | some (refRec, ref') =>
      if rec = refRec then { s with ref := ref' }
      else ({ s with ref := ref' }).raise (.checkerMismatch rec (some refRec))

end Sys2Proof.Machine
end

