-- ==== Sys2Proof/Machine/Stages.lean ====
section
/-!
DEFINITION. What a stage does to the instruction it holds (43_stages, 44_instruction_classes R240): the operations the
meanings share. An instruction's meaning is the operation of the stage that is acting (log 7).
-/

namespace Sys2Proof.Machine

/-! ### Decode (43_stages R194 to R196) -/

/-- The record Decode issues (43_stages R195). -/
def issuedRecord (b : Body) (p : IfIdData) (s : State) : InstrRec where
  body := b
  raw := p.raw
  pc := p.pc
  predictedTaken := p.predictedTaken
  predictedTarget := p.predictedTarget
  vSrc1 := readSource s.x s.hilo b.src1
  vSrc2 := readSource s.x s.hilo b.src2
  result := none

/-- Decode steps 4 to 6 on the buffered packet: issue when no register is in flight (43_stages R195), else raise the
stall and keep the packet (R196). -/
def issueOp (b : Body) (s : State) : Result :=
  match s.idBuf with
  | none => .fault (.noInstructionAtStage .decode)
  | some p =>
    if hazardFree s.config s.sb b then
      .next ((({ (s.invalidate b.dst) with idBuf := none }).putDecode2Execute (issuedRecord b p s)).andThen
        fun s => { s with idStatus := some (.issued p.pc) })
    else
      .next ((s.putDecode2FetchStall).andThen fun s => { s with idStatus := some (.hazard p.pc) })

/-! ### Execute (43_stages R199, R200) -/

/-- Execute reads a record, lets `f` work on it and forwards it to Memory (43_stages R199, R200). -/
def executeOp (f : InstrRec → InstrRec) (s : State) : Result :=
  match portRead s.cycle s.decode2Execute with
  | none => .fault (.noInstructionAtStage .execute)
  | some (r, q) =>
    .next ((({ s with decode2Execute := q }).putExecute2Memory (f r)).andThen
      fun s => { s with exStatus := some (.executed r.pc) })

/-- Execute's work on a live record: the EXECUTE of the instruction on the source values it carries (43_stages R200). -/
def withResult (dst : Option RegIdx) (ex : Word → DWord → DWord → ExecOut) (r : InstrRec) : InstrRec :=
  { r with result := some (fitResult dst (ex r.pc r.vSrc1 r.vSrc2)) }

/-! ### Memory (43_stages R203 to R209) -/

/-- The misprediction action (43_stages R207): the four flush ports and the target port. -/
def State.broadcastFlush (pc realTarget : Word) (s : State) : State :=
  ((((s.putFetchFlush.andThen State.putDecodeFlush).andThen State.putExecuteFlush).andThen
    State.putMemoryFlush).andThen (State.putFetchTarget realTarget)).andThen
    fun s => { s with memStatus := some (.mispredicted pc realTarget) }

/-- A class's memory access: the record it forwards, or the fatal it raises. -/
abbrev Access := InstrRec → State → Except Fatal (InstrRec × Memory)

/-- OTHER and JUMP access no memory (44_instruction_classes R241, R244). -/
def noAccess : Access := fun r s => .ok (r, s.mem)

/-- A LOAD of `n` bytes: the zero-extended value replaces v_dst (43_stages R208). -/
def loadAccess (n : Nat) : Access := fun r s =>
  (memRead s.config s.mem r.out.memAddr n).map fun v => ({ r with result := some { r.out with vDst := wideWord v } }, s.mem)

/-- A STORE of `n` bytes of v_src2 (43_stages R208). -/
def storeAccess (n : Nat) : Access := fun r s =>
  (memWrite s.config s.mem r.out.memAddr n (lowWord r.vSrc2)).map fun m => (r, m)

/-- The memory access and the forward to Writeback (43_stages R208, R209). -/
def State.accessAndForward (access : Access) (r : InstrRec) (missed : Bool) (s : State) : State :=
  match access r s with
  | .error f => s.raise f
  | .ok (r', m) =>
    (({ s with mem := m }).putMemory2Writeback r').andThen
      fun s => if missed then s else { s with memStatus := some (.memDone r.pc) }

/-- Memory's work on an instruction: predictor update for every class (43_stages R205), misprediction test and action
(R206, R207), then access and forward of the same instruction (R208, R209). -/
def memoryOp (i : Instr) (access : Access) (s : State) : Result :=
  match portRead s.cycle s.execute2Memory with
  | none => .fault (.noInstructionAtStage .memory)
  | some (r, q) =>
    let taken := actuallyTaken i r.out
    let missed := mispredict r taken r.out.newPc
    let updated : State :=
      { s with execute2Memory := q, btb := btbUpdate s.config s.btb taken r.pc r.out.newPc }
    let signalled := if missed then updated.broadcastFlush r.pc r.out.newPc else updated
    .next (signalled.andThen (State.accessAndForward access r missed))

/-! ### Writeback (43_stages R211 to R213) -/

/-- Writeback's work on a record: register write and validation (43_stages R211), retire record and check (R212),
counters (R213). -/
def retireOp (b : Body) (s : State) : Result :=
  match portRead s.cycle s.memory2Writeback with
  | none => .fault (.noInstructionAtStage .writeback)
  | some (r, q) =>
    let rec_ := retireRecord b r.raw r.pc r.vSrc2 r.out
    let written := ({ s with memory2Writeback := q }).writeDst b.dst r.out.vDst
    .next ((({ written with retireLog := written.retireLog ++ [rec_] }).checkRecord rec_).andThen fun s =>
      { s with
        executedInstrs := s.executedInstrs + 1
        lastWritebackCycle := s.cycle
        wbStatus := some (.retired r.pc) })

/-! ### The shape of a meaning -/

/-- What an instruction does in the stage that is acting (44_instruction_classes R240): issue at Decode, EXECUTE at
Execute, predictor, flush and access at Memory, result and retirement at Writeback. -/
def runStage (i : Instr) (ex : Word → DWord → DWord → ExecOut) (access : Access) (s : State) : Result :=
  match s.acting with
  | .fetch => .fault .noInstructionAtFetch
  | .decode => issueOp (.live i) s
  | .execute => executeOp (withResult i.dst ex) s
  | .memory => memoryOp i access s
  | .writeback => retireOp (.live i) s

end Sys2Proof.Machine
end

