-- ==== Sys2Proof/Machine/Classes.lean ====
section
/-!
DEFINITION. The meanings of the four class rows (44_instruction_classes R241 to R244). EXECUTE is the open parameter
the launch names (30_encoding R84).
-/

namespace Sys2Proof.Machine

/-- OTHER (44_instruction_classes R241). -/
def execOther (src1 src2 dst : Option RegIdx) (op : Word) (s : State) : Result :=
  runStage (.other src1 src2 dst op) (Config.execute (isaKey s.config.isa) (.other src1 src2 dst op)) noAccess s

/-- JUMP (44_instruction_classes R244). -/
def execJump (src1 src2 dst : Option RegIdx) (op : Word) (s : State) : Result :=
  runStage (.jump src1 src2 dst op) (Config.execute (isaKey s.config.isa) (.jump src1 src2 dst op)) noAccess s

/-- STORE (44_instruction_classes R243). -/
def execStore (src1 src2 dst : Option RegIdx) (memSize : Nat) (op : Word) (s : State) : Result :=
  runStage (.store src1 src2 dst memSize op) (Config.execute (isaKey s.config.isa) (.store src1 src2 dst memSize op))
    (storeAccess memSize) s

/-- LOAD (44_instruction_classes R242). -/
def execLoad (src1 src2 dst : Option RegIdx) (memSize : Nat) (op : Word) (s : State) : Result :=
  runStage (.load src1 src2 dst memSize op) (Config.execute (isaKey s.config.isa) (.load src1 src2 dst memSize op))
    (loadAccess memSize) s

end Sys2Proof.Machine
end

