-- ==== Sys2Proof/Machine/FixtureAlu.lean ====
section
/-!
DEFINITION. The meanings of the fixture's OTHER rows: addu, sll, addiu (44_instruction_classes R241 with
95_test_vectors 1.2, 1.3).
-/

namespace Sys2Proof.Machine

/-- `addu rd, rs, rt`. -/
def execAddu (rd rs rt : BitVec 5) (s : State) : Result :=
  runStage (.addu rd rs rt) (executeAddu rd rs rt) noAccess s

/-- `sll rd, rt, sa`; the word 0 is `nop`. -/
def execSll (rd rt sa : BitVec 5) (s : State) : Result :=
  runStage (.sll rd rt sa) (executeSll rd rt sa) noAccess s

/-- `addiu rt, rs, imm`. -/
def execAddiu (rt rs : BitVec 5) (imm : BitVec 16) (s : State) : Result :=
  runStage (.addiu rt rs imm) (executeAddiu rt rs imm) noAccess s

end Sys2Proof.Machine
end

