-- ==== Sys2Proof/Machine/FixtureJump.lean ====
section
/-!
DEFINITION. The meanings of the fixture's JUMP rows: jr, beq, bne, j, jal (44_instruction_classes R244 with
95_test_vectors 1.2, 1.3).
-/

namespace Sys2Proof.Machine

/-- `jr rs`. -/
def execJr (rs : BitVec 5) (s : State) : Result :=
  runStage (.jr rs) (executeJr rs) noAccess s

/-- `beq rs, rt, imm`. -/
def execBeq (rs rt : BitVec 5) (imm : BitVec 16) (s : State) : Result :=
  runStage (.beq rs rt imm) (executeBeq rs rt imm) noAccess s

/-- `bne rs, rt, imm`. -/
def execBne (rs rt : BitVec 5) (imm : BitVec 16) (s : State) : Result :=
  runStage (.bne rs rt imm) (executeBne rs rt imm) noAccess s

/-- `j idx`. -/
def execJ (idx : BitVec 26) (s : State) : Result :=
  runStage (.j idx) (executeJ idx) noAccess s

/-- `jal idx`. -/
def execJal (idx : BitVec 26) (s : State) : Result :=
  runStage (.jal idx) (executeJal idx) noAccess s

end Sys2Proof.Machine
end

