-- ==== Sys2Proof/Machine/FixtureMemory.lean ====
section
/-!
DEFINITION. The meanings of the fixture's LOAD and STORE rows: lw (44_instruction_classes R242) and sw (R243), with
95_test_vectors 1.2, 1.3.
-/

namespace Sys2Proof.Machine

/-- `lw rt, imm(rs)`. -/
def execLw (rt rs : BitVec 5) (imm : BitVec 16) (s : State) : Result :=
  runStage (.lw rt rs imm) (executeLw rt rs imm) (loadAccess 4) s

/-- `sw rt, imm(rs)`. -/
def execSw (rt rs : BitVec 5) (imm : BitVec 16) (s : State) : Result :=
  runStage (.sw rt rs imm) (executeSw rt rs imm) (storeAccess 4) s

end Sys2Proof.Machine
end

