-- ==== Sys2Proof/Machine/Dispatch.lean ====
section
/-! DEFINITION. One arm per row of the opcode table. -/

namespace Sys2Proof.Machine

def exec (i : Instr) (s : State) : Host.Outcome State Fault Refusal :=
  match i with
  | .other src1 src2 dst op => Sys2Proof.Machine.execOther src1 src2 dst op s
  | .jump src1 src2 dst op => Sys2Proof.Machine.execJump src1 src2 dst op s
  | .store src1 src2 dst memSize op => Sys2Proof.Machine.execStore src1 src2 dst memSize op s
  | .load src1 src2 dst memSize op => Sys2Proof.Machine.execLoad src1 src2 dst memSize op s
  | .addu rd rs rt => Sys2Proof.Machine.execAddu rd rs rt s
  | .sll rd rt sa => Sys2Proof.Machine.execSll rd rt sa s
  | .jr rs => Sys2Proof.Machine.execJr rs s
  | .addiu rt rs imm => Sys2Proof.Machine.execAddiu rt rs imm s
  | .beq rs rt imm => Sys2Proof.Machine.execBeq rs rt imm s
  | .bne rs rt imm => Sys2Proof.Machine.execBne rs rt imm s
  | .j idx => Sys2Proof.Machine.execJ idx s
  | .jal idx => Sys2Proof.Machine.execJal idx s
  | .lw rt rs imm => Sys2Proof.Machine.execLw rt rs imm s
  | .sw rt rs imm => Sys2Proof.Machine.execSw rt rs imm s

end Sys2Proof.Machine
end

