-- ==== Sys2Proof/Machine/Fetch.lean ====
section
/-!
DEFINITION. The Fetch stage (43_stages R184 to R189).
-/

namespace Sys2Proof.Machine

/-- Fetch step 1: on a flush, the PC becomes the target Memory sent (43_stages R184). -/
def State.redirect (s : State) : State :=
  let s1 := { s with memory2FetchFlush := portAfterRead s.cycle s.memory2FetchFlush }
  if portRaised s.cycle s.memory2FetchFlush then
    match portRead s.cycle s.memory2FetchTarget with
    | none => s1.raise (.portProtocol .memory2FetchTarget)
    | some (a, q) => { s1 with memory2FetchTarget := q, pc := a }
  else s1

/-- The packet Fetch sends for a word read at its PC (43_stages R186, R187). -/
def fetchPacket (raw : Word) (s : State) : IfIdData where
  raw := raw
  pc := s.pc
  predictedTaken := predictTaken s.config s.btb s.pc
  predictedTarget := if predictTaken s.config s.btb s.pc then getTarget s.config s.btb s.pc else s.pc + 4

/-- The BTB after Fetch's lookups: predictTaken, then getTarget when it returned true (43_stages R186,
41_branch_predictor R144). -/
def lookupBtb (s : State) : Btb :=
  let once := tagRead s.config s.btb s.pc
  if predictTaken s.config s.btb s.pc then tagRead s.config once s.pc else once

/-- Fetch steps 2 to 5: read the word, predict, send the packet, advance (43_stages R185 to R188). -/
def State.fetchWord (s : State) : State :=
  match memRead s.config s.mem s.pc 4 with
  | .error f => s.raise f
  | .ok raw =>
    (({ s with btb := lookupBtb s }).putFetch2Decode (fetchPacket raw s)).andThen fun s' =>
      { s' with pc := (fetchPacket raw s).predictedTarget, ifStatus := some (.fetched s.pc) }

/-- The clock of Fetch: a raised stall short-circuits it (43_stages R181, R189), else redirect and fetch. -/
def fetchStage (s : State) : Result :=
  let s1 := { s with decode2FetchStall := portAfterRead s.cycle s.decode2FetchStall }
  if portRaised s.cycle s.decode2FetchStall then .next { s1 with ifStatus := some .stalled }
  else .next (s1.redirect.andThen State.fetchWord)

end Sys2Proof.Machine
end

