-- ==== Sys2Proof/Machine/Pipeline.lean ====
section
/-!
DEFINITION. The clocks of Decode, Execute, Memory and Writeback around the meanings (43_stages R180 to R213), the
cycle (R217) and the driver's loop (45_driver R261 to R263). An instruction is run by `exec` in each of these stages.
-/

namespace Sys2Proof.Machine

/-- The successor-stall short-circuit of Decode, Execute and Memory (43_stages R181, R182): with a raised stall the
stage only consumes it and shows `stalled`; otherwise it operates on the state without the entry it read. -/
def clockStage (stalled : Bool) (shown afterRead : State) (operate : State → Result) : Result :=
  if stalled then .next shown else operate afterRead

/-! ### Decode -/

/-- Decode step 2: take a packet from P1 unless one is buffered (43_stages R192). -/
def State.takePacket (s : State) : State :=
  match s.idBuf with
  | some _ => s
  | none =>
    match portRead s.cycle s.fetch2Decode with
    | none => s
    | some (p, q) => { s with fetch2Decode := q, idBuf := some p }

/-- A rejected word at Decode (43_stages R193): the fatal at once under fault_at_decode, else a poisoned record. -/
def rejectOp (code : Poison) (pc : Word) (s : State) : Result :=
  match s.config.invalidPolicy with
  | .faultWhenCommitted => issueOp (.poisoned code) s
  | .faultAtDecode =>
    match code with
    | .invalidInstruction => .next (s.raise (.invalidInstruction pc))
    | .refusedInstruction => .next (s.raise (.refusedInstruction pc))

/-- Decode steps 2 to 6 (43_stages R192 to R196). -/
def decodeWork (s : State) : Result :=
  match s.takePacket.idBuf with
  | none => .next { s.takePacket with idStatus := some .idle }
  | some p =>
    match decodeWord s.config.isa p.raw p.pc with
    | .instr i => exec i s.takePacket
    | .invalid => rejectOp .invalidInstruction p.pc s.takePacket
    | .refused => rejectOp .refusedInstruction p.pc s.takePacket

/-- Decode's operation: flush first (43_stages R183, R191). -/
def decodeOperate (s : State) : Result :=
  let s1 := { s with memory2DecodeFlush := portAfterRead s.cycle s.memory2DecodeFlush }
  if portRaised s.cycle s.memory2DecodeFlush then
    .next { s1 with fetch2Decode := portKept s.cycle s.fetch2Decode, idBuf := none, idStatus := some .flushed }
  else decodeWork s1

/-- The clock of Decode. -/
def decodeStage (s0 : State) : Result :=
  let s := { s0 with acting := .decode }
  let s1 := { s with execute2DecodeStall := portAfterRead s.cycle s.execute2DecodeStall }
  clockStage (portRaised s.cycle s.execute2DecodeStall) { s1 with idStatus := some .stalled } s1 decodeOperate

/-! ### Execute -/

/-- Validate the destination of every discarded record (43_stages R198, R202). -/
def State.validateAll : List InstrRec → State → State
  | [], s => s
  | r :: rs, s => State.validateAll rs (s.validate r.body.dst)

/-- Execute steps after the flush test (43_stages R199, R200): a poisoned record passes unexecuted. -/
def executeWork (s : State) : Result :=
  match portRead s.cycle s.decode2Execute with
  | none => .next { s with exStatus := some .idle }
  | some (r, _) =>
    match r.body with
    | .live i => exec i s
    | .poisoned _ => executeOp id s

/-- Execute's operation: flush first (43_stages R183, R198). -/
def executeOperate (s : State) : Result :=
  let s1 := { s with memory2ExecuteFlush := portAfterRead s.cycle s.memory2ExecuteFlush }
  if portRaised s.cycle s.memory2ExecuteFlush then
    let s2 := { s1 with decode2Execute := portKept s.cycle s.decode2Execute }
    .next { (s2.validateAll (portFlushed s.cycle s.decode2Execute)) with exStatus := some .flushed }
  else executeWork s1

/-- The clock of Execute. -/
def executeStage (s0 : State) : Result :=
  let s := { s0 with acting := .execute }
  let s1 := { s with memory2ExecuteStall := portAfterRead s.cycle s.memory2ExecuteStall }
  clockStage (portRaised s.cycle s.memory2ExecuteStall) { s1 with exStatus := some .stalled } s1 executeOperate

/-! ### Memory -/

/-- Memory steps after the flush test (43_stages R203): a poisoned record raises its fatal. -/
def memoryWork (s : State) : Result :=
  match portRead s.cycle s.execute2Memory with
  | none => .next { s with memStatus := some .idle }
  | some (r, q) =>
    match r.body with
    | .live i => exec i s
    | .poisoned .invalidInstruction => .next (({ s with execute2Memory := q }).raise (.invalidInstruction r.pc))
    | .poisoned .refusedInstruction => .next (({ s with execute2Memory := q }).raise (.refusedInstruction r.pc))

/-- Memory's operation: flush first (43_stages R183, R202). -/
def memoryOperate (s : State) : Result :=
  let s1 := { s with memory2MemoryFlush := portAfterRead s.cycle s.memory2MemoryFlush }
  if portRaised s.cycle s.memory2MemoryFlush then
    let s2 := { s1 with execute2Memory := portKept s.cycle s.execute2Memory }
    .next { (s2.validateAll (portFlushed s.cycle s.execute2Memory)) with memStatus := some .flushed }
  else memoryWork s1

/-- The clock of Memory. -/
def memoryStage (s0 : State) : Result :=
  let s := { s0 with acting := .memory }
  let s1 := { s with writeback2MemoryStall := portAfterRead s.cycle s.writeback2MemoryStall }
  clockStage (portRaised s.cycle s.writeback2MemoryStall) { s1 with memStatus := some .stalled } s1 memoryOperate

/-! ### Writeback -/

/-- The clock of Writeback, which has neither a stall nor a flush input (43_stages R182, R183, R210). Memory lets no
poisoned record through (R203); one found here would retire like any record. -/
def writebackStage (s0 : State) : Result :=
  let s := { s0 with acting := .writeback }
  match portRead s.cycle s.memory2Writeback with
  | none => .next { s with wbStatus := some .idle }
  | some (r, _) =>
    match r.body with
    | .live i => exec i s
    | .poisoned code => retireOp (.poisoned code) s

/-! ### The cycle and the driver -/

/-- The start of a cycle: no stage has acted yet. -/
def State.beginCycle (s : State) : State :=
  { s with ifStatus := none, idStatus := none, exStatus := none, memStatus := none, wbStatus := none, acting := .fetch }

/-- `cycle_step` (43_stages R217): IF, ID, EX, MEM, WB once each (R180). -/
def cycleStep (s : State) : Result :=
  andThenStage (andThenStage (andThenStage (andThenStage (fetchStage s.beginCycle) decodeStage) executeStage)
    memoryStage) writebackStage

/-- The driver after a complete cycle: count it, test the watchdog, then the loop condition (45_driver R261 to R263,
log 9). -/
def State.endCycle (s : State) : State :=
  let s1 := { s with cycle := s.cycle + 1, acting := .fetch }
  if s1.config.watchdogLimit ≤ s1.cycle - s1.lastWritebackCycle then s1.raise (.deadlock s1.cycle)
  else if s1.config.instrsToRun ≤ s1.executedInstrs then { s1 with runStatus := .done }
  else s1

/-- One step of the driver (45_driver R261): a terminal state stays (10_state R40); a run whose budget is met before
the cycle ends (R265); otherwise one cycle. -/
def driverStep (s : State) : Result :=
  match s.runStatus with
  | .done => .next s
  | .faulted _ => .next s
  | .running =>
    if s.config.instrsToRun ≤ s.executedInstrs then .next { s with runStatus := .done }
    else andThenStage (cycleStep s) fun s' => .next s'.endCycle

end Sys2Proof.Machine
end

