-- ==== Sys2Proof/Machine/Step.lean ====
section
/-! DEFINITION. The step: one clock cycle of the driver (00_scope R6), and the placing of one instruction. -/

namespace Sys2Proof.Machine

/-- One step of the model: one clock cycle of the driver (00_scope R6, 45_driver R261). -/
def step (s : State) : Host.Outcome State Fault Refusal := driverStep s

/-- The opcode table's word placed where the next step runs it: at Decode, fetched from the PC (log 10). -/
def State.withFetchWord (s : State) (nbits w : Nat) : State :=
  if nbits < 32 then s.holdFetched (.descriptor 0) (BitVec.ofNat 32 (w % 2 ^ nbits))
  else s.holdFetched .fixture (BitVec.ofNat 32 w)

end Sys2Proof.Machine
end

