-- ==== Sys2Proof/Safety.lean ====
section
/-!
DEFINITION. What a good state is, in the terms the statements use: launch premises, the invariants of memory, branch
predictor, pipeline and counters, and an instruction's passage through its four stages.
-/

namespace Sys2Proof.Machine

/-! ### Run status -/

/-- The run has ended with a fatal: the state is the middle of a cycle and is read no further (45_driver R271). -/
def State.faultedRun (s : State) : Prop := ∃ f, s.runStatus = .faulted f

/-- The run has ended (10_state R40). -/
def State.terminal (s : State) : Prop := s.runStatus = .done ∨ s.faultedRun

/-! ### Memory -/

/-- Both memories, the CORE's and REF's, are in canonical form. -/
def MemoryInv (s : State) : Prop := Memory.wf s.mem = true ∧ Memory.wf s.ref.memf = true

/-! ### Branch predictor -/

/-- A BPEntry of the configured shape (10_state R31): 2^L counters in [0, max_state], a pattern of L bits. -/
def BpEntry.ok (c : CoreConfig) (e : BpEntry) : Prop :=
  e.stateTable.length = c.tableSize ∧ (∀ v ∈ e.stateTable, v ≤ c.maxState) ∧ e.currentPattern < c.tableSize

/-- A set of the configured shape (10_state R29, R30): one tag and one entry per way, tags in their width, no two valid
tags alike (41_branch_predictor R126), and a recency order that is a permutation of the ways. -/
def BtbSet.ok (c : CoreConfig) (b : BtbSet) : Prop :=
  b.tags.length = c.btbWays ∧ b.data.length = c.btbWays ∧ b.lru.Perm (List.range c.btbWays) ∧
    (b.tags.filterMap id).Nodup ∧ (∀ t ∈ b.tags.filterMap id, t < 2 ^ (c.branchIpBits - c.setBits)) ∧
    ∀ e ∈ b.data, e.ok c

/-- The BTB has SETS sets of the configured shape. -/
def BtbOk (c : CoreConfig) (btb : Btb) : Prop := btb.length = c.sets ∧ ∀ b ∈ btb, b.ok c

/-- The predictor invariant: a legal configuration (41_branch_predictor R121) and a BTB of its shape. -/
def BtbInv (s : State) : Prop := s.config.legal = true ∧ BtbOk s.config s.btb

/-- `n` updates of one address with one outcome and one target. -/
def repeatUpdate (c : CoreConfig) (taken : Bool) (a target : Word) : Nat → Btb → Btb
  | 0, btb => btb
  | n + 1, btb => repeatUpdate c taken a target n (btbUpdate c btb taken a target)

/-! ### Pipeline -/

/-- No entry of cycle `t` is in the port yet, so a write in that cycle is within the bandwidth (40_port_fabric R102). -/
def noWriteYet {α : Type} (t : Nat) (q : Port α) : Prop := ∀ e ∈ q, e.cycleWritten ≠ t

/-- The port with a write of cycle `t` (40_port_fabric R102). -/
def written {α : Type} (t : Nat) (v : α) (q : Port α) : Port α := q ++ [{ cycleWritten := t, value := v }]

/-- None of Memory's six output ports has been written in this cycle. -/
def memoryPortsFree (s : State) : Prop :=
  noWriteYet s.cycle s.memory2FetchFlush ∧ noWriteYet s.cycle s.memory2DecodeFlush ∧
    noWriteYet s.cycle s.memory2ExecuteFlush ∧ noWriteYet s.cycle s.memory2MemoryFlush ∧
    noWriteYet s.cycle s.memory2FetchTarget ∧ noWriteYet s.cycle s.memory2Writeback

/-- The state with what Memory signals for a record whose prediction was right or wrong: on a misprediction `true` on
the four flush ports and the real target on the target port (43_stages R207), and its status (R207, R209). -/
def withSignals (missed : Bool) (pc realTarget : Word) (s : State) : State :=
  if missed then
    { s with
      memory2FetchFlush := written s.cycle true s.memory2FetchFlush
      memory2DecodeFlush := written s.cycle true s.memory2DecodeFlush
      memory2ExecuteFlush := written s.cycle true s.memory2ExecuteFlush
      memory2MemoryFlush := written s.cycle true s.memory2MemoryFlush
      memory2FetchTarget := written s.cycle realTarget s.memory2FetchTarget
      memStatus := some (.mispredicted pc realTarget) }
  else { s with memStatus := some (.memDone pc) }

/-- At most one entry, and it was written in the previous cycle. -/
def writtenLastCycle {α : Type} (t : Nat) (q : Port α) : Prop := q.length ≤ 1 ∧ ∀ e ∈ q, e.cycleWritten + 1 = t

/-- At most one entry, and it is ready. -/
def singleReady {α : Type} (t : Nat) (q : Port α) : Prop := q.length ≤ 1 ∧ ∀ e ∈ q, e.cycleWritten < t

/-- The records in flight between Decode and Writeback, oldest first: P7, P5, P3 (42_scoreboard R168). -/
def State.inFlight (s : State) : List InstrRec :=
  s.memory2Writeback.map Entry.value ++ s.execute2Memory.map Entry.value ++ s.decode2Execute.map Entry.value

/-- The tracked destinations of the records in flight (42_scoreboard R168). -/
def State.inFlightDsts (s : State) : List RegIdx :=
  (s.inFlight.filterMap fun r => r.body.dst).filter fun r => tracked s.config r

/-- The scoreboard balance (42_scoreboard R167, R168): a bit is clear exactly when the register is tracked and the
destination of a record in flight, and no two records in flight have one destination. -/
def scoreboardBalanced (s : State) : Prop :=
  (∀ r : RegIdx, s.sb[r.val] = false ↔ r ∈ s.inFlightDsts) ∧ s.inFlightDsts.Nodup

/-- The control ports (40_port_fabric R110, R113; 43_stages R190): the stall ports of EX, MEM and WB are empty; a stall
stands exactly while Decode holds a packet; the flush of Decode, Execute and Memory stand and fall together, for one
cycle; Fetch's flush and target stand together, and longer than one cycle only when a stall deferred them. -/
def controlPortsOk (s : State) : Prop :=
  s.execute2DecodeStall = [] ∧ s.memory2ExecuteStall = [] ∧ s.writeback2MemoryStall = [] ∧
    writtenLastCycle s.cycle s.decode2FetchStall ∧ (s.decode2FetchStall = [] ↔ s.idBuf = none) ∧
    writtenLastCycle s.cycle s.memory2DecodeFlush ∧
    s.memory2ExecuteFlush = s.memory2DecodeFlush ∧ s.memory2MemoryFlush = s.memory2DecodeFlush ∧
    singleReady s.cycle s.memory2FetchFlush ∧
    s.memory2FetchTarget.map Entry.cycleWritten = s.memory2FetchFlush.map Entry.cycleWritten ∧
    (s.memory2DecodeFlush = [] ∨ s.memory2FetchFlush = s.memory2DecodeFlush) ∧
    (s.memory2FetchFlush = [] ∨ s.memory2FetchFlush = s.memory2DecodeFlush ∨ s.decode2FetchStall = []) ∧
    (∀ e ∈ s.decode2FetchStall ++ s.memory2FetchFlush, e.value = true)

/-- The data ports (40_port_fabric R110): one entry at most, and P3, P5 and P7 are emptied every cycle. A record past
Execute has been executed or is poisoned, and no poisoned record passes Memory (43_stages R200, R203). -/
def dataPortsOk (s : State) : Prop :=
  singleReady s.cycle s.fetch2Decode ∧ writtenLastCycle s.cycle s.decode2Execute ∧
    writtenLastCycle s.cycle s.execute2Memory ∧ writtenLastCycle s.cycle s.memory2Writeback ∧
    (∀ e ∈ s.execute2Memory, (∃ code, e.value.body = .poisoned code) ∨ e.value.result ≠ none) ∧
    (∀ e ∈ s.memory2Writeback, (∃ i, e.value.body = .live i) ∧ e.value.result ≠ none)

/-- The pipeline at a cycle boundary of a run that has not faulted. -/
def PipelineInv (s : State) : Prop :=
  s.faultedRun ∨ (s.acting = .fetch ∧ controlPortsOk s ∧ dataPortsOk s ∧ scoreboardBalanced s)

/-! ### Counters -/

/-- Counters and retire log at a cycle boundary of a run that has not faulted (45_driver R262, R263, R268). -/
def CounterInv (s : State) : Prop :=
  s.faultedRun ∨
    (s.executedInstrs ≤ s.config.instrsToRun ∧ s.lastWritebackCycle ≤ s.cycle ∧
      s.retireLog.length = s.executedInstrs ∧
      (s.cycle = 0 ∨ s.cycle - s.lastWritebackCycle < s.config.watchdogLimit) ∧
      (s.runStatus = .done → s.executedInstrs = s.config.instrsToRun))

/-- The fill of the pipeline (70_reset R309, R313): an instruction needs a cycle for each stage before it, so by the
start of cycle c at most c - 4 have retired, c - 3 have passed Memory, c - 2 Execute and c - 1 Decode;
before cycle 0 nothing has been fetched. -/
def FillInv (s : State) : Prop :=
  s.faultedRun ∨
    (s.executedInstrs ≤ s.cycle - 4 ∧
      s.executedInstrs + s.memory2Writeback.length ≤ s.cycle - 3 ∧
      s.executedInstrs + s.memory2Writeback.length + s.execute2Memory.length ≤ s.cycle - 2 ∧
      s.executedInstrs + s.memory2Writeback.length + s.execute2Memory.length + s.decode2Execute.length ≤ s.cycle - 1 ∧
      (s.cycle = 0 → s.idBuf = none ∧ s.fetch2Decode = []))

/-! ### One instruction alone -/

/-- The state in the next cycle, with the given stage acting. -/
def State.nextCycle (stage : Stage) (s : State) : State := { s with cycle := s.cycle + 1, acting := stage }

/-- An instruction's passage through Decode, Execute, Memory and Writeback in four successive cycles, with nothing else
in the machine: its meaning in each stage, one after the other (44_instruction_classes R240, 70_reset R309). -/
def passAlone (i : Instr) (s : State) : Result :=
  andThenStage (andThenStage (andThenStage (exec i { s with acting := .decode })
    fun s1 => exec i (s1.nextCycle .execute)) fun s2 => exec i (s2.nextCycle .memory))
    fun s3 => exec i (s3.nextCycle .writeback)

/-- Nothing but Decode's buffered packet is in the machine: no record in flight, no flush, every register valid. -/
def aloneAtDecode (p : IfIdData) (s : State) : Prop :=
  s.runStatus = .running ∧ s.idBuf = some p ∧ s.decode2Execute = [] ∧ s.execute2Memory = [] ∧
    s.memory2Writeback = [] ∧ s.memory2FetchFlush = [] ∧ s.memory2DecodeFlush = [] ∧ s.memory2ExecuteFlush = [] ∧
    s.memory2MemoryFlush = [] ∧ s.memory2FetchTarget = [] ∧ s.sb = Vector.replicate 33 true

/-- REF stands where the CORE stands: the same registers and memory, at the packet's address (45_driver R269). -/
def refCoherent (p : IfIdData) (s : State) : Prop :=
  s.ref.pcf = p.pc ∧ s.ref.xf = s.x ∧ s.ref.hilof = s.hilo ∧ s.ref.memf = s.mem

end Sys2Proof.Machine
end

