-- ==== Sys2Proof/Certificates/Slice0/Obligations.lean ====
section
/-!
DEFINITION. The statements about the model, for the provers. Each docstring names the rule of spec/ it formalises.
-/

open Sys2Proof Sys2Proof.Machine

/-! ### Encoding -/

/-- Words of 95_test_vectors 1.4, and a beq word put together from 1.2, decode to the instructions they stand for, and a word no fixture row matches does not.
A word with a class vector of 30_encoding R85 in its low bits decodes to that class, and one with two predicates (R86)
does not; that zeros above the class vector mean no operand, one byte and `op` 0 is the model's packing (log 6). -/
def Obligations.TableWordsDecode : Prop :=
  decodeTableWord 32 0x24080005 = some (.addiu 8 0 5) ∧ decodeTableWord 32 0x01095021 = some (.addu 10 8 9) ∧
  decodeTableWord 32 0x00000000 = some (.sll 0 0 0) ∧ decodeTableWord 32 0x03E00008 = some (.jr 31) ∧
  decodeTableWord 32 0x11090004 = some (.beq 8 9 4) ∧
  decodeTableWord 32 0x1500FFFD = some (.bne 8 0 0xFFFD) ∧ decodeTableWord 32 0x0C100004 = some (.jal 0x100004) ∧
  decodeTableWord 32 0x08100002 = some (.j 0x100002) ∧ decodeTableWord 32 0x8C090200 = some (.lw 9 0 0x200) ∧
  decodeTableWord 32 0xAC0A0100 = some (.sw 10 0 0x100) ∧ decodeTableWord 32 0xFFFFFFFF = none ∧
  decodeTableWord 8 0 = some (.other none none none 0) ∧ decodeTableWord 8 1 = some (.jump none none none 0) ∧
  decodeTableWord 8 2 = some (.store none none none 1 0) ∧ decodeTableWord 8 4 = some (.load none none none 1 0) ∧
  decodeTableWord 8 3 = none ∧ decodeTableWord 8 5 = none ∧ decodeTableWord 8 6 = none ∧ decodeTableWord 8 7 = none

/-- Decoding the words of a well-formed instruction gives the instruction back, for every row of the table and every
operand value. The operand fields of a class word and the `op` after it are the model's choice (log 6), as is that a
class word in memory takes its `op` from its top nine bits. -/
def Obligations.DecodeEncodeAgree : Prop :=
  (∀ i : Instr, i.wellFormed = true → decode (encode i) = some i) ∧
  ∀ (key : Nat) (raw pc : Word), decodeWord (.descriptor key) raw pc = (decode [raw, raw >>> 23]).elim .invalid .instr

/-- A fixture word has one reading (95_test_vectors 1.2): a word that decodes is the encoding of what it decodes to. -/
def Obligations.FixtureWordHasOneReading : Prop := ∀ (w : Word) (i : Instr), decodeFixture w = some i → encode i = [w]

/-- 30_encoding R86, R85: which descriptors are ill-formed, that an ill-formed descriptor of DECODE is treated as
`invalid`, and that a well-formed one becomes the instruction of its class vector, with its operands. For the fixture,
DECODE is the table of 95_test_vectors 1.2 (a word without a row is `invalid`, none is `refused`), and each row has the
src1, src2, dst, class and mem_size of that table. -/
def Obligations.DescriptorDecidesInstruction : Prop :=
  (∀ d : Descriptor, classify d = none ↔
    ((d.isLoad = true ∧ d.isStore = true) ∨ (d.isLoad = true ∧ d.isJump = true) ∨ (d.isStore = true ∧ d.isJump = true) ∨
      ((d.isLoad = true ∨ d.isStore = true) ∧ d.memSize ≠ 1 ∧ d.memSize ≠ 2 ∧ d.memSize ≠ 4) ∨
      (∃ n, 32 < n ∧ (d.src1 = some n ∨ d.src2 = some n ∨ d.dst = some n)))) ∧
  (∀ (key : Nat) (raw pc : Word), decodeWord (.external key) raw pc =
    match Config.decode key raw pc with
    | .invalid => .invalid
    | .refused => .refused
    | .ok d => (classify d).elim .invalid .instr) ∧
  (∀ (d : Descriptor) (i : Instr), classify d = some i →
    i.isLoad = d.isLoad ∧ i.isStore = d.isStore ∧ i.isJump = d.isJump ∧ i.wellFormed = true ∧
    i.src1.map Fin.val = d.src1 ∧ i.src2.map Fin.val = d.src2 ∧ i.dst.map Fin.val = d.dst ∧
    (d.isLoad = true ∨ d.isStore = true → i.memSize = d.memSize)) ∧
  (∀ raw pc : Word, decodeWord .fixture raw pc = (decodeFixture raw).elim .invalid .instr) ∧
  (let columns := fun i : Instr =>
      (i.src1.map Fin.val, i.src2.map Fin.val, i.dst.map Fin.val, i.isLoad, i.isStore, i.isJump)
    ∀ (rs rt rd sa : BitVec 5) (imm : BitVec 16) (idx : BitVec 26),
      let s := some rs.toNat
      let t := some rt.toNat
      let d := some rd.toNat
      columns (.addu rd rs rt) = (s, t, d, false, false, false) ∧
      columns (.sll rd rt sa) = (t, none, d, false, false, false) ∧
      columns (.jr rs) = (s, none, none, false, false, true) ∧
      columns (.addiu rt rs imm) = (s, none, t, false, false, false) ∧
      columns (.beq rs rt imm) = (s, t, none, false, false, true) ∧
      columns (.bne rs rt imm) = (s, t, none, false, false, true) ∧
      columns (.j idx) = (none, none, none, false, false, true) ∧
      columns (.jal idx) = (none, none, some 31, false, false, true) ∧
      columns (.lw rt rs imm) = (s, none, t, true, false, false) ∧ (Instr.lw rt rs imm).memSize = 4 ∧
      columns (.sw rt rs imm) = (s, t, none, false, true, false) ∧ (Instr.sw rt rs imm).memSize = 4)

/-! ### Ports -/

/-- 40_port_fabric R106: a read in the cycle of a write returns what it would have returned without it; alone in its
queue, the written value is returned one cycle later. -/
def Obligations.PortWriteVisibleNextCycle : Prop :=
  ∀ (α : Type) (t : Nat) (v : α) (q q' : Port α), portWrite t v q = some q' →
    portRead t q' = (portRead t q).map (fun p => (p.1, p.2 ++ [{ cycleWritten := t, value := v }])) ∧
    (q = [] → portRead (t + 1) q' = some (v, []))

/-- 40_port_fabric R105, R103: a flush returns the older values, oldest first, and keeps the entry written in the same
cycle, which only the next cycle can read. -/
def Obligations.PortFlushKeepsSameCycleEntry : Prop :=
  ∀ (α : Type) (t : Nat) (v : α) (q q' : Port α), (∀ e ∈ q, e.cycleWritten < t) → portWrite t v q = some q' →
    portFlushed t q' = q.map Entry.value ∧ portKept t q' = [{ cycleWritten := t, value := v }] ∧
    portRead t (portKept t q') = none ∧ portRead (t + 1) (portKept t q') = some (v, [])

/-- 40_port_fabric R102, for every port the CORE writes: a first write of the cycle appends its entry and changes
nothing else; a second one raises PORT_BANDWIDTH with the port's name. -/
def Obligations.SecondPortWriteIsFatal : Prop :=
  ∀ (s : State) (p : IfIdData) (r : InstrRec) (a : Word),
    (noWriteYet s.cycle s.fetch2Decode → s.putFetch2Decode p = { s with fetch2Decode := written s.cycle p s.fetch2Decode }) ∧
    (¬ noWriteYet s.cycle s.fetch2Decode → s.putFetch2Decode p = s.raise (.portBandwidth .fetch2Decode)) ∧
    (noWriteYet s.cycle s.decode2FetchStall → s.putDecode2FetchStall = { s with decode2FetchStall := written s.cycle true s.decode2FetchStall }) ∧
    (¬ noWriteYet s.cycle s.decode2FetchStall → s.putDecode2FetchStall = s.raise (.portBandwidth .decode2FetchStall)) ∧
    (noWriteYet s.cycle s.decode2Execute → s.putDecode2Execute r = { s with decode2Execute := written s.cycle r s.decode2Execute }) ∧
    (¬ noWriteYet s.cycle s.decode2Execute → s.putDecode2Execute r = s.raise (.portBandwidth .decode2Execute)) ∧
    (noWriteYet s.cycle s.execute2Memory → s.putExecute2Memory r = { s with execute2Memory := written s.cycle r s.execute2Memory }) ∧
    (¬ noWriteYet s.cycle s.execute2Memory → s.putExecute2Memory r = s.raise (.portBandwidth .execute2Memory)) ∧
    (noWriteYet s.cycle s.memory2Writeback → s.putMemory2Writeback r = { s with memory2Writeback := written s.cycle r s.memory2Writeback }) ∧
    (¬ noWriteYet s.cycle s.memory2Writeback → s.putMemory2Writeback r = s.raise (.portBandwidth .memory2Writeback)) ∧
    (noWriteYet s.cycle s.memory2FetchFlush → s.putFetchFlush = { s with memory2FetchFlush := written s.cycle true s.memory2FetchFlush }) ∧
    (¬ noWriteYet s.cycle s.memory2FetchFlush → s.putFetchFlush = s.raise (.portBandwidth .memory2FetchFlush)) ∧
    (noWriteYet s.cycle s.memory2DecodeFlush → s.putDecodeFlush = { s with memory2DecodeFlush := written s.cycle true s.memory2DecodeFlush }) ∧
    (¬ noWriteYet s.cycle s.memory2DecodeFlush → s.putDecodeFlush = s.raise (.portBandwidth .memory2DecodeFlush)) ∧
    (noWriteYet s.cycle s.memory2ExecuteFlush → s.putExecuteFlush = { s with memory2ExecuteFlush := written s.cycle true s.memory2ExecuteFlush }) ∧
    (¬ noWriteYet s.cycle s.memory2ExecuteFlush → s.putExecuteFlush = s.raise (.portBandwidth .memory2ExecuteFlush)) ∧
    (noWriteYet s.cycle s.memory2MemoryFlush → s.putMemoryFlush = { s with memory2MemoryFlush := written s.cycle true s.memory2MemoryFlush }) ∧
    (¬ noWriteYet s.cycle s.memory2MemoryFlush → s.putMemoryFlush = s.raise (.portBandwidth .memory2MemoryFlush)) ∧
    (noWriteYet s.cycle s.memory2FetchTarget → s.putFetchTarget a = { s with memory2FetchTarget := written s.cycle a s.memory2FetchTarget }) ∧
    (¬ noWriteYet s.cycle s.memory2FetchTarget → s.putFetchTarget a = s.raise (.portBandwidth .memory2FetchTarget))

/-! ### Memory -/

/-- 20_memory R63: the byte order of a read, and that MemWrite is its inverse under the same ENDIAN. -/
def Obligations.ByteOrderAndInverse : Prop :=
  ∀ (c : CoreConfig) (m : Memory) (addr : Word),
    let b := fun k : Nat => readByte m (addr + BitVec.ofNat 32 k).toNat
    (c.endian = .little → memValue c m addr 1 = (b 0).setWidth 32 ∧ memValue c m addr 2 = (b 1 ++ b 0).setWidth 32 ∧
      memValue c m addr 4 = b 3 ++ b 2 ++ b 1 ++ b 0) ∧
    (c.endian = .big → memValue c m addr 1 = (b 0).setWidth 32 ∧ memValue c m addr 2 = (b 0 ++ b 1).setWidth 32 ∧
      memValue c m addr 4 = b 0 ++ b 1 ++ b 2 ++ b 3) ∧
    (Memory.wf m = true → ∀ (n : Nat) (v : Word), legalSize n = true →
      memValue c (memStored c m addr n v) addr n = v &&& BitVec.ofNat 32 (2 ^ (8 * n) - 1))

/-- 20_memory R62: an aligned or bytewise MemWrite stores the low bytes of the value in ENDIAN order at the n addresses,
modulo 2^32, and changes no other byte. A misaligned one under `fault` writes nothing and reports the address and the
size. That memory has a canonical form, and that the write keeps it, is the model's own (log 3). -/
def Obligations.MemWriteStoresExactlyItsBytes : Prop :=
  ∀ (c : CoreConfig) (m : Memory) (addr : Word) (n : Nat) (v : Word), Memory.wf m = true → legalSize n = true →
    (c.misalignedPolicy = .fault ∧ addr.toNat % n ≠ 0 ∧ memWrite c m addr n v = .error (.misaligned addr n)) ∨
    ((c.misalignedPolicy = .fault → addr.toNat % n = 0) ∧
      ∃ m', memWrite c m addr n v = .ok m' ∧ Memory.wf m' = true ∧
        (∀ k < n, readByte m' (addr + BitVec.ofNat 32 k).toNat =
          v.extractLsb' (8 * (if c.endian = .little then k else n - 1 - k)) 8) ∧
        (∀ a : Nat, (∀ k < n, a ≠ (addr + BitVec.ofNat 32 k).toNat) → readByte m' a = readByte m a))

/-- 20_memory R64: when a read or write of any size faults, and with what; otherwise it takes place. -/
def Obligations.MisalignedAccessFaults : Prop :=
  ∀ (c : CoreConfig) (m : Memory) (addr : Word) (n : Nat) (v : Word),
    (c.misalignedPolicy = .fault → addr.toNat % n ≠ 0 →
      memRead c m addr n = .error (.misaligned addr n) ∧ memWrite c m addr n v = .error (.misaligned addr n)) ∧
    ((c.misalignedPolicy = .bytewise ∨ addr.toNat % n = 0) →
      memRead c m addr n = .ok (memValue c m addr n) ∧ memWrite c m addr n v = .ok (memStored c m addr n v))

/-! ### Registers and scoreboard -/

/-- 10_state R21: register 0 reads 0 whatever the register file holds, and a write to it is discarded. -/
def Obligations.RegisterZeroIsHardwired : Prop :=
  ∀ (x : Vector Word 32) (hilo v : DWord), readReg x hilo 0 = 0 ∧ writeGpr x (some 0) v = x ∧
    writeHilo hilo (some 0) v = hilo

/-- 42_scoreboard R165: `write_dst` writes the destination in its width (register 0 is discarded, `none` writes nothing),
leaves every other register alone, and validates the destination. -/
def Obligations.WriteDstWritesAndValidates : Prop :=
  ∀ (s : State) (dst : Option RegIdx) (v : DWord) (r : RegIdx),
    readReg (s.writeDst dst v).x (s.writeDst dst v).hilo r =
      (if dst = some r ∧ r ≠ 0 then (if r.val = 32 then v else wideWord (lowWord v)) else readReg s.x s.hilo r) ∧
    (s.writeDst dst v).sb[r.val] = (if dst = some r ∧ (r ≠ 0 ∨ s.config.r0Tracked = true) then true else s.sb[r.val])

/-- 42_scoreboard R160 to R163: invalidate and validate set the bit of a tracked register and no other bit, check reads
it, and an untracked register or `none` always checks valid. -/
def Obligations.ScoreboardOperations : Prop :=
  ∀ (s : State) (r q : RegIdx),
    (tracked s.config r = true ↔ (r ≠ 0 ∨ s.config.r0Tracked = true)) ∧
    (tracked s.config r = true →
      sbCheck s.config s.sb (some r) = s.sb[r.val] ∧
      sbCheck s.config (s.invalidate (some r)).sb (some r) = false ∧
      sbCheck s.config (s.validate (some r)).sb (some r) = true) ∧
    (tracked s.config r = false →
      sbCheck s.config s.sb (some r) = true ∧ (s.invalidate (some r)).sb = s.sb ∧ (s.validate (some r)).sb = s.sb) ∧
    (q ≠ r → (s.invalidate (some r)).sb[q.val] = s.sb[q.val] ∧ (s.validate (some r)).sb[q.val] = s.sb[q.val]) ∧
    (sbCheck s.config s.sb none = true ∧ s.invalidate none = s ∧ s.validate none = s)

/-! ### Branch predictor -/

/-- 41_branch_predictor R121: construction succeeds exactly when the six conditions hold, and otherwise ends the run
before cycle 0 with CONFIG_INVALID and the number of a failing condition. -/
def Obligations.LegalConfigurations : Prop :=
  ∀ l : Launch,
    let c := l.config
    let holds : Nat → Prop := fun n =>
      (n = 1 → 0 < c.btbSize ∧ 0 < c.btbWays) ∧ (n = 2 → c.btbSize % c.btbWays = 0) ∧
      (n = 3 → ∃ k, c.btbSize / c.btbWays = 2 ^ k) ∧ (n = 4 → 1 ≤ c.predictionBits ∧ c.predictionBits ≤ 32) ∧
      (n = 5 → c.predictionLevel ≤ 16) ∧ (n = 6 → 1 ≤ c.branchIpBits ∧ c.branchIpBits ≤ 32)
    ((construct l).runStatus = .running ↔ ∀ n, holds n) ∧
    ((∃ n, ¬ holds n) → (construct l).cycle = 0 ∧ (construct l).executedInstrs = 0 ∧
      ∃ n, ¬ holds n ∧ (construct l).runStatus = .faulted (.configInvalid n) ∧ step (construct l) = .next (construct l))

/-- 41_branch_predictor R133: the source's masked-complement trick is the clamp, for every legal counter width. -/
def Obligations.SaturatingTrickIsClamp : Prop :=
  ∀ (c : CoreConfig) (v : Nat), 1 ≤ c.predictionBits → v ≤ c.maxState →
    satTrick c.predictionBits v true = min (v + 1) c.maxState ∧ satTrick c.predictionBits v false = v - 1 ∧
    sat c v true = min (v + 1) c.maxState ∧ sat c v false = v - 1

/-- 41_branch_predictor R134 to R137: after an update the address hits, in the way the tag write returned; that way's
entry is reset on a taken update with a new target, and otherwise has its current counter stepped and its history
shifted; every other way and every other set keeps its entry. -/
def Obligations.UpdateTrainsOneEntry : Prop :=
  ∀ (c : CoreConfig) (btb : Btb) (taken : Bool) (a target : Word), c.legal = true → BtbOk c btb →
    let w := writeWay c btb a
    let e := btbEntry (btbSet btb (setOf c a)) w
    let btb' := btbUpdate c btb taken a target
    let e' := btbEntry (btbSet btb' (setOf c a)) w
    tagHit c btb' a = some w ∧
    (taken = true → e.target ≠ target →
      e' = { stateTable := List.replicate (2 ^ c.predictionLevel) (c.meanState - 1), currentPattern := 0, target := target }) ∧
    ((taken = false ∨ e.target = target) →
      e'.target = e.target ∧
      e'.stateTable = e.stateTable.set e.currentPattern
        (if taken then min (e.counter + 1) (2 * c.meanState - 1) else e.counter - 1) ∧
      e'.currentPattern = (2 * e.currentPattern + if taken then 1 else 0) % 2 ^ c.predictionLevel) ∧
    (∀ v, v ≠ w → btbEntry (btbSet btb' (setOf c a)) v = btbEntry (btbSet btb (setOf c a)) v) ∧
    (∀ i, i ≠ setOf c a → btbSet btb' i = btbSet btb i)

/-- 41_branch_predictor R123, R124, R126, R127, R131, R132: the set and tag of an address; a lookup hits way w exactly
when that way of the set holds the tag; what the two lookups return on a miss and on a hit; which way an allocation
evicts (the least recently used), what a hit or an allocation does to the recency order, that a miss of a lookup changes
nothing, and that neither a tag read nor a tag write touches an entry or another set. -/
def Obligations.ReplacementIsLeastRecentlyUsed : Prop :=
  ∀ (c : CoreConfig) (btb : Btb) (a : Word), c.legal = true → BtbOk c btb →
    let sets := c.btbSize / c.btbWays
    let b := btbSet btb (setOf c a)
    setOf c a = a.toNat % sets ∧ tagOf c a = a.toNat % 2 ^ c.branchIpBits / sets ∧ btb[a.toNat % sets]? = some b ∧
    (∀ w, tagHit c btb a = some w ↔ b.tags[w]? = some (some (a.toNat % 2 ^ c.branchIpBits / sets))) ∧
    (tagHit c btb a = none →
      predictTaken c btb a = false ∧ getTarget c btb a = a + 4 ∧
      tagRead c btb a = btb ∧ some (writeWay c btb a) = b.lru.head? ∧
      (btbSet (tagWrite c btb a) (setOf c a)).tags = b.tags.set (writeWay c btb a) (some (tagOf c a)) ∧
      (btbSet (tagWrite c btb a) (setOf c a)).lru = b.lru.tail ++ [writeWay c btb a]) ∧
    (∀ w, tagHit c btb a = some w →
      (∃ (e : BpEntry) (v : Nat), b.data[w]? = some e ∧ e.stateTable[e.currentPattern]? = some v ∧
        predictTaken c btb a = decide (2 ^ (c.predictionBits - 1) ≤ v) ∧ getTarget c btb a = e.target) ∧
      writeWay c btb a = w ∧ tagWrite c btb a = tagRead c btb a ∧
      (btbSet (tagRead c btb a) (setOf c a)).tags = b.tags ∧
      (btbSet (tagRead c btb a) (setOf c a)).lru = b.lru.filter (fun v => v != w) ++ [w]) ∧
    (btbSet (tagRead c btb a) (setOf c a)).data = b.data ∧ (btbSet (tagWrite c btb a) (setOf c a)).data = b.data ∧
    (∀ i, i ≠ setOf c a → btbSet (tagRead c btb a) i = btbSet btb i ∧ btbSet (tagWrite c btb a) i = btbSet btb i)

/-- 41_branch_predictor R140: an update that resets the entry leaves it predicting not taken; a second one makes it
predict taken exactly when L = 0: its counter for pattern 0 is then mean_state, and with L >= 1 the pattern is 1, whose
counter is still default_state. -/
def Obligations.FreshTargetPredictsNotTaken : Prop :=
  ∀ (c : CoreConfig) (btb : Btb) (a target : Word), c.legal = true → BtbOk c btb →
    (btbEntry (btbSet btb (setOf c a)) (writeWay c btb a)).target ≠ target →
    let once := btbUpdate c btb true a target
    let twice := btbUpdate c once true a target
    let e := btbEntry (btbSet twice (setOf c a)) (writeWay c btb a)
    predictTaken c once a = false ∧ predictTaken c twice a = decide (c.predictionLevel = 0) ∧
    e.stateTable[0]? = some c.meanState ∧
    (1 ≤ c.predictionLevel → e.currentPattern = 1 ∧ e.stateTable[1]? = some (c.meanState - 1))

/-- 41_branch_predictor R143: enough equal updates of one address make the predictor follow them. -/
def Obligations.RepeatedOutcomeSaturates : Prop :=
  ∀ (c : CoreConfig) (btb : Btb) (taken : Bool) (a target : Word) (n : Nat), c.legal = true → BtbOk c btb →
    c.predictionLevel + max c.meanState 2 ≤ n → predictTaken c (repeatUpdate c taken a target n btb) a = taken

/-! ### Fetch -/

/-- 43_stages R181, R189: a raised stall makes Fetch consume the stall and do nothing else. -/
def Obligations.StalledFetchDoesNothing : Prop :=
  ∀ s : State, portRaised s.cycle s.decode2FetchStall = true →
    fetchStage s = .next { s with
      decode2FetchStall := s.decode2FetchStall.tail
      ifStatus := some .stalled }

/-- 43_stages R185 to R188 and 41_branch_predictor R144: an unstalled Fetch without a redirect sends the word at its PC
with the two predictions, touches the BTB as one tag read does, and moves to the predicted target. With a misaligned PC
under `fault` it raises MISALIGNED with the PC and size 4 and does nothing else: no packet, no BTB lookup (20_memory
R64, 60_exceptions R282). -/
def Obligations.FetchSendsWordAtPc : Prop :=
  ∀ s : State, s.runStatus = .running → s.decode2FetchStall = [] → s.memory2FetchFlush = [] →
    (∀ raw : Word, BtbInv s → memRead s.config s.mem s.pc 4 = .ok raw → noWriteYet s.cycle s.fetch2Decode →
      let taken := predictTaken s.config s.btb s.pc
      let target := if taken then getTarget s.config s.btb s.pc else s.pc + 4
      fetchStage s = .next { s with
        fetch2Decode := written s.cycle { raw := raw, pc := s.pc, predictedTaken := taken, predictedTarget := target } s.fetch2Decode
        btb := tagRead s.config s.btb s.pc
        pc := target
        ifStatus := some (.fetched s.pc) }) ∧
    (s.config.misalignedPolicy = .fault → s.pc.toNat % 4 ≠ 0 →
      fetchStage s = .next (s.raise (.misaligned s.pc 4)))

/-- 43_stages R184: on a flush Fetch takes its PC from the target port and then fetches; without a target it raises
PORT_PROTOCOL. -/
def Obligations.FlushRedirectsFetch : Prop :=
  ∀ (s : State) (e : Entry Bool), s.runStatus = .running → s.decode2FetchStall = [] → s.memory2FetchFlush = [e] →
    e.value = true → e.cycleWritten < s.cycle →
    (∀ (a : Word) (q : Port Word), portRead s.cycle s.memory2FetchTarget = some (a, q) →
      fetchStage s = fetchStage { s with memory2FetchFlush := [], memory2FetchTarget := q, pc := a }) ∧
    (portRead s.cycle s.memory2FetchTarget = none →
      fetchStage s = .next (({ s with memory2FetchFlush := [] }).raise (.portProtocol .memory2FetchTarget)))

/-! ### Decode -/

/-- 43_stages R193: what Decode makes of its packet, whether it was buffered or has just been read from P1 (what
`takePacket` leaves is stated by StepRunsDecodedInstruction). A decoded word is run by `exec`; a rejected one raises its
fatal under fault_at_decode, and otherwise issues as a poisoned record that names no register. -/
def Obligations.DecodeRunsOrRejectsWord : Prop :=
  ∀ (s : State) (p : IfIdData), s.runStatus = .running → s.takePacket.idBuf = some p → s.execute2DecodeStall = [] →
    s.memory2DecodeFlush = [] → noWriteYet s.cycle s.decode2Execute →
    let taken := { s.takePacket with acting := .decode }
    let record := fun code : Poison =>
      ({ body := .poisoned code, raw := p.raw, pc := p.pc, predictedTaken := p.predictedTaken,
         predictedTarget := p.predictedTarget, vSrc1 := 0, vSrc2 := 0, result := none } : InstrRec)
    let rejected := fun (code : Poison) (f : Fatal) =>
      if s.config.invalidPolicy = .faultAtDecode then taken.raise f
      else { taken with
        idBuf := none
        decode2Execute := written s.cycle (record code) s.decode2Execute
        idStatus := some (.issued p.pc) }
    decodeStage s =
      match decodeWord s.config.isa p.raw p.pc with
      | .instr i => exec i taken
      | .invalid => .next (rejected .invalidInstruction (.invalidInstruction p.pc))
      | .refused => .next (rejected .refusedInstruction (.refusedInstruction p.pc))

/-- 43_stages R195 and 42_scoreboard R164, for every instruction: with its registers valid it issues, carrying its
packet's fields and its source values, 0 for an absent source and for register 0, 64 bits for HI/LO; its destination is invalidated and Decode's buffer freed; nothing else changes. -/
def Obligations.DecodeIssuesWhenReady : Prop :=
  ∀ (i : Instr) (s : State) (p : IfIdData), s.acting = .decode → s.runStatus = .running → s.idBuf = some p →
    sbCheck s.config s.sb i.src1 = true → sbCheck s.config s.sb i.src2 = true → sbCheck s.config s.sb i.dst = true →
    noWriteYet s.cycle s.decode2Execute →
    let value : Option RegIdx → DWord := fun source =>
      match source with
      | none => 0
      | some r => if r = 0 then 0 else if h : r.val < 32 then wideWord s.x[r.val] else s.hilo
    exec i s = .next { s with
      sb := sbSet s.config s.sb false i.dst
      idBuf := none
      decode2Execute := written s.cycle
        { body := .live i, raw := p.raw, pc := p.pc, predictedTaken := p.predictedTaken,
          predictedTarget := p.predictedTarget, vSrc1 := value i.src1, vSrc2 := value i.src2, result := none } s.decode2Execute
      idStatus := some (.issued p.pc) }

/-- 43_stages R194, R196, for every instruction: with a register of it in flight, Decode raises the stall and keeps the
packet; nothing else changes. -/
def Obligations.DecodeHoldsOnHazard : Prop :=
  ∀ (i : Instr) (s : State) (p : IfIdData), s.acting = .decode → s.runStatus = .running → s.idBuf = some p →
    (sbCheck s.config s.sb i.src1 = false ∨ sbCheck s.config s.sb i.src2 = false ∨ sbCheck s.config s.sb i.dst = false) →
    noWriteYet s.cycle s.decode2FetchStall →
    exec i s = .next { s with
      decode2FetchStall := written s.cycle true s.decode2FetchStall
      idStatus := some (.hazard p.pc) }

/-! ### Execute -/

/-- 43_stages R200 with 95_test_vectors 1.3, the fixture's OTHER rows: addu, sll and addiu forward their record with
the sum or shift modulo 2^32 and the next PC PC + 4. The table gives them no mem_addr: any (log 14). -/
def Obligations.ExecuteAluRows : Prop :=
  ∀ (s : State) (r : InstrRec) (q : Port InstrRec), s.acting = .execute → s.runStatus = .running →
    portRead s.cycle s.decode2Execute = some (r, q) → noWriteYet s.cycle s.execute2Memory →
    let forwarded := fun o : ExecOut => Host.Outcome.next (φ := Fault) (ρ := Refusal) { s with
      decode2Execute := q
      execute2Memory := written s.cycle { r with result := some o } s.execute2Memory
      exStatus := some (.executed r.pc) }
    (∀ rd rs rt, ∃ a, exec (.addu rd rs rt) s =
      forwarded { newPc := r.pc + 4, jumpExecuted := false, vDst := wideWord (lowWord r.vSrc1 + lowWord r.vSrc2), memAddr := a }) ∧
    (∀ rd rt sa, ∃ a, exec (.sll rd rt sa) s =
      forwarded { newPc := r.pc + 4, jumpExecuted := false, vDst := wideWord (lowWord r.vSrc1 <<< sa.toNat), memAddr := a }) ∧
    (∀ rt rs (imm : BitVec 16), ∃ a, exec (.addiu rt rs imm) s =
      forwarded { newPc := r.pc + 4, jumpExecuted := false, vDst := wideWord (lowWord r.vSrc1 + imm.signExtend 32), memAddr := a })

/-- 43_stages R200 with 95_test_vectors 1.3, the fixture's branches: beq and bne forward their record with the outcome
of the comparison and the next PC it gives. The table gives them no v_dst and no mem_addr: any (log 14). -/
def Obligations.ExecuteBranchRows : Prop :=
  ∀ (s : State) (r : InstrRec) (q : Port InstrRec), s.acting = .execute → s.runStatus = .running →
    portRead s.cycle s.decode2Execute = some (r, q) → noWriteYet s.cycle s.execute2Memory →
    let forwarded := fun o : ExecOut => Host.Outcome.next (φ := Fault) (ρ := Refusal) { s with
      decode2Execute := q
      execute2Memory := written s.cycle { r with result := some o } s.execute2Memory
      exStatus := some (.executed r.pc) }
    let equal := lowWord r.vSrc1 = lowWord r.vSrc2
    (∀ rs rt (imm : BitVec 16), ∃ v a, exec (.beq rs rt imm) s =
      forwarded { newPc := if equal then r.pc + 4 + imm.signExtend 32 * 4 else r.pc + 4, jumpExecuted := decide equal, vDst := v, memAddr := a }) ∧
    (∀ rs rt (imm : BitVec 16), ∃ v a, exec (.bne rs rt imm) s =
      forwarded { newPc := if equal then r.pc + 4 else r.pc + 4 + imm.signExtend 32 * 4, jumpExecuted := decide (¬ equal), vDst := v, memAddr := a })

/-- 43_stages R200 with 95_test_vectors 1.3, the fixture's jumps: j, jal and jr forward their record with their target,
always taken; jal's result is PC + 4. The table gives no v_dst to j and jr and no mem_addr to any: any (log 14). -/
def Obligations.ExecuteJumpRows : Prop :=
  ∀ (s : State) (r : InstrRec) (q : Port InstrRec), s.acting = .execute → s.runStatus = .running →
    portRead s.cycle s.decode2Execute = some (r, q) → noWriteYet s.cycle s.execute2Memory →
    let forwarded := fun o : ExecOut => Host.Outcome.next (φ := Fault) (ρ := Refusal) { s with
      decode2Execute := q
      execute2Memory := written s.cycle { r with result := some o } s.execute2Memory
      exStatus := some (.executed r.pc) }
    let region := (r.pc + 4).extractLsb' 28 4
    (∀ idx : BitVec 26, ∃ v a, exec (.j idx) s =
      forwarded { newPc := region ++ idx ++ 0#2, jumpExecuted := true, vDst := v, memAddr := a }) ∧
    (∀ idx : BitVec 26, ∃ a, exec (.jal idx) s =
      forwarded { newPc := region ++ idx ++ 0#2, jumpExecuted := true, vDst := wideWord (r.pc + 4), memAddr := a }) ∧
    (∀ rs, ∃ v a, exec (.jr rs) s =
      forwarded { newPc := lowWord r.vSrc1, jumpExecuted := true, vDst := v, memAddr := a })

/-- 43_stages R200 with 95_test_vectors 1.3, the fixture's memory rows: lw and sw forward their record with the address
v1 + sext(imm) modulo 2^32 and the next PC PC + 4. The table gives them no v_dst here: any (log 14). -/
def Obligations.ExecuteMemoryRows : Prop :=
  ∀ (s : State) (r : InstrRec) (q : Port InstrRec), s.acting = .execute → s.runStatus = .running →
    portRead s.cycle s.decode2Execute = some (r, q) → noWriteYet s.cycle s.execute2Memory →
    let forwarded := fun o : ExecOut => Host.Outcome.next (φ := Fault) (ρ := Refusal) { s with
      decode2Execute := q
      execute2Memory := written s.cycle { r with result := some o } s.execute2Memory
      exStatus := some (.executed r.pc) }
    (∀ rt rs (imm : BitVec 16), ∃ v, exec (.lw rt rs imm) s =
      forwarded { newPc := r.pc + 4, jumpExecuted := false, vDst := v, memAddr := lowWord r.vSrc1 + imm.signExtend 32 }) ∧
    (∀ rt rs (imm : BitVec 16), ∃ v, exec (.sw rt rs imm) s =
      forwarded { newPc := r.pc + 4, jumpExecuted := false, vDst := v, memAddr := lowWord r.vSrc1 + imm.signExtend 32 })

/-- 43_stages R200 with 30_encoding R84, the class rows: OTHER, JUMP, STORE and LOAD forward their record with what the
launch's EXECUTE gives for the descriptor, its PC and the source values, the result in the destination's width. -/
def Obligations.ExecuteClassRows : Prop :=
  ∀ (s : State) (r : InstrRec) (q : Port InstrRec) (key : Nat), s.acting = .execute → s.runStatus = .running →
    (s.config.isa = .external key ∨ s.config.isa = .descriptor key) →
    portRead s.cycle s.decode2Execute = some (r, q) → noWriteYet s.cycle s.execute2Memory →
    let forwarded := fun (i : Instr) (dst : Option RegIdx) => Host.Outcome.next (φ := Fault) (ρ := Refusal) { s with
      decode2Execute := q
      execute2Memory := written s.cycle { r with
        result := some
          { newPc := (Config.execute key i r.pc r.vSrc1 r.vSrc2).newPc
            jumpExecuted := (Config.execute key i r.pc r.vSrc1 r.vSrc2).jumpExecuted
            vDst := (if dst = none ∨ dst = some 32 then (Config.execute key i r.pc r.vSrc1 r.vSrc2).vDst
              else wideWord (lowWord (Config.execute key i r.pc r.vSrc1 r.vSrc2).vDst))
            memAddr := (Config.execute key i r.pc r.vSrc1 r.vSrc2).memAddr } } s.execute2Memory
      exStatus := some (.executed r.pc) }
    ∀ (s1 s2 t : Option RegIdx) (n : Nat) (op : Word),
      exec (.other s1 s2 t op) s = forwarded (.other s1 s2 t op) t ∧
      exec (.jump s1 s2 t op) s = forwarded (.jump s1 s2 t op) t ∧
      exec (.store s1 s2 t n op) s = forwarded (.store s1 s2 t n op) t ∧
      exec (.load s1 s2 t n op) s = forwarded (.load s1 s2 t n op) t

/-- 43_stages R191, R198, R202: a flush makes Decode drop its buffer and the packets written before this cycle, with no
scoreboard change; it makes Execute and Memory discard the records written before this cycle and set the scoreboard bit
of each discarded tracked destination and no other. Nothing else changes. -/
def Obligations.FlushDiscardsYoungerWork : Prop :=
  ∀ (s : State) (e : Entry Bool), e.value = true → e.cycleWritten < s.cycle →
    (s.execute2DecodeStall = [] → s.memory2DecodeFlush = [e] →
      decodeStage s = .next { s with
        acting := .decode
        memory2DecodeFlush := []
        fetch2Decode := s.fetch2Decode.filter (fun x => decide (s.cycle ≤ x.cycleWritten))
        idBuf := none
        idStatus := some .flushed }) ∧
    (s.memory2ExecuteStall = [] → s.memory2ExecuteFlush = [e] →
      ∃ sb : Vector Bool 33,
        executeStage s = .next { s with
          acting := .execute
          memory2ExecuteFlush := []
          decode2Execute := s.decode2Execute.filter (fun x => decide (s.cycle ≤ x.cycleWritten))
          sb := sb
          exStatus := some .flushed } ∧
        ∀ r : RegIdx, sb[r.val] = true ↔ (s.sb[r.val] = true ∨ (tracked s.config r = true ∧
          ∃ x ∈ s.decode2Execute, x.cycleWritten < s.cycle ∧ x.value.body.dst = some r))) ∧
    (s.writeback2MemoryStall = [] → s.memory2MemoryFlush = [e] →
      ∃ sb : Vector Bool 33,
        memoryStage s = .next { s with
          acting := .memory
          memory2MemoryFlush := []
          execute2Memory := s.execute2Memory.filter (fun x => decide (s.cycle ≤ x.cycleWritten))
          sb := sb
          memStatus := some .flushed } ∧
        ∀ r : RegIdx, sb[r.val] = true ↔ (s.sb[r.val] = true ∨ (tracked s.config r = true ∧
          ∃ x ∈ s.execute2Memory, x.cycleWritten < s.cycle ∧ x.value.body.dst = some r)))

/-! ### Memory -/

/-- 44_instruction_classes R241, R244, for every instruction that neither loads nor stores (OTHER, JUMP, addu, sll,
addiu, jr, beq, bne, j, jal): Memory updates the predictor with the actual outcome, signals a misprediction, and
forwards the record, mispredicted or not, without touching memory. -/
def Obligations.MemoryPassesOtherAndJump : Prop :=
  ∀ (i : Instr) (s : State) (r : InstrRec) (q : Port InstrRec) (o : ExecOut), s.acting = .memory →
    s.runStatus = .running → i.isLoad = false → i.isStore = false →
    portRead s.cycle s.execute2Memory = some (r, q) → r.result = some o → memoryPortsFree s →
    let taken := i.isJump && o.jumpExecuted
    exec i s = .next (withSignals (decide (r.predictedTaken ≠ taken ∨ r.predictedTarget ≠ o.newPc)) r.pc o.newPc { s with
      execute2Memory := q
      btb := btbUpdate s.config s.btb taken r.pc o.newPc
      memory2Writeback := written s.cycle r s.memory2Writeback })

/-- 44_instruction_classes R242, for LOAD and lw: Memory updates the predictor toward not taken, signals a
misprediction, and forwards the record with the loaded value, zero-extended, as its result; memory stays. -/
def Obligations.MemoryPerformsLoad : Prop :=
  ∀ (i : Instr) (s : State) (r : InstrRec) (q : Port InstrRec) (o : ExecOut) (v : Word), s.acting = .memory →
    s.runStatus = .running → i.isLoad = true →
    portRead s.cycle s.execute2Memory = some (r, q) → r.result = some o → memoryPortsFree s →
    memRead s.config s.mem o.memAddr i.memSize = .ok v →
    exec i s = .next (withSignals (decide (r.predictedTaken = true ∨ r.predictedTarget ≠ o.newPc)) r.pc o.newPc { s with
      execute2Memory := q
      btb := btbUpdate s.config s.btb false r.pc o.newPc
      memory2Writeback := written s.cycle { r with result := some { o with vDst := wideWord v } } s.memory2Writeback })

/-- 44_instruction_classes R243, for STORE and sw: Memory updates the predictor toward not taken, signals a
misprediction, performs MemWrite of v_src2 at the record's address, and forwards the record. -/
def Obligations.MemoryPerformsStore : Prop :=
  ∀ (i : Instr) (s : State) (r : InstrRec) (q : Port InstrRec) (o : ExecOut) (m' : Memory), s.acting = .memory →
    s.runStatus = .running → i.isStore = true →
    portRead s.cycle s.execute2Memory = some (r, q) → r.result = some o → memoryPortsFree s →
    memWrite s.config s.mem o.memAddr i.memSize (lowWord r.vSrc2) = .ok m' →
    exec i s = .next (withSignals (decide (r.predictedTaken = true ∨ r.predictedTarget ≠ o.newPc)) r.pc o.newPc { s with
      execute2Memory := q
      btb := btbUpdate s.config s.btb false r.pc o.newPc
      mem := m'
      memory2Writeback := written s.cycle r s.memory2Writeback })

/-- 20_memory R64 and 60_exceptions R282 at Memory: a misaligned load or store under `fault` ends the run with the
address and size, after the predictor update and before the access; no byte of memory changes and nothing is forwarded. -/
def Obligations.MisalignedDataAccessEndsRun : Prop :=
  ∀ (i : Instr) (s : State) (r : InstrRec) (q : Port InstrRec) (o : ExecOut), s.acting = .memory →
    s.runStatus = .running → (i.isLoad = true ∨ i.isStore = true) →
    portRead s.cycle s.execute2Memory = some (r, q) → r.result = some o → memoryPortsFree s →
    s.config.misalignedPolicy = .fault → o.memAddr.toNat % i.memSize ≠ 0 →
    ∃ t, exec i s = .next t ∧ t.runStatus = .faulted (.misaligned o.memAddr i.memSize) ∧ t.mem = s.mem ∧
      t.memory2Writeback = s.memory2Writeback ∧ t.btb = btbUpdate s.config s.btb false r.pc o.newPc ∧
      t.x = s.x ∧ t.hilo = s.hilo ∧ t.sb = s.sb

/-- 43_stages R200, R203: a poisoned record passes Execute unchanged, and when it reaches Memory it ends the run with its
code and PC. -/
def Obligations.PoisonedRecordFaultsAtMemory : Prop :=
  ∀ (s : State) (r : InstrRec) (q : Port InstrRec),
    (∀ code, r.body = .poisoned code → s.runStatus = .running → s.memory2ExecuteStall = [] → s.memory2ExecuteFlush = [] →
      portRead s.cycle s.decode2Execute = some (r, q) → noWriteYet s.cycle s.execute2Memory →
      executeStage s = .next { s with
        acting := .execute
        decode2Execute := q
        execute2Memory := written s.cycle r s.execute2Memory
        exStatus := some (.executed r.pc) }) ∧
    (s.writeback2MemoryStall = [] → s.memory2MemoryFlush = [] → portRead s.cycle s.execute2Memory = some (r, q) →
      (r.body = .poisoned .invalidInstruction → memoryStage s = .next
        (({ s with acting := .memory, execute2Memory := q }).raise (.invalidInstruction r.pc))) ∧
      (r.body = .poisoned .refusedInstruction → memoryStage s = .next
        (({ s with acting := .memory, execute2Memory := q }).raise (.refusedInstruction r.pc))))

/-! ### Writeback -/

/-- 43_stages R211 to R213 with 42_scoreboard R165 and 45_driver R268, for every instruction: Writeback writes the
result to the destination and validates it, emits the retire record, and counts the instruction; with the checker
attached and agreeing, REF moves one step, and detached it is not stepped. Nothing else changes. -/
def Obligations.WritebackRetires : Prop :=
  ∀ (i : Instr) (s : State) (r : InstrRec) (q : Port InstrRec) (o : ExecOut) (ref' : RefState), s.acting = .writeback →
    s.runStatus = .running → portRead s.cycle s.memory2Writeback = some (r, q) → r.result = some o →
    let record : RetireRecord :=
      { pc := r.pc, raw := r.raw, newPc := o.newPc, dst := i.dst,
        vDst := (if i.dst = none ∨ i.dst = some 0 then none else some o.vDst),
        mem := (if i.isLoad then .load o.memAddr i.memSize
          else if i.isStore then .store o.memAddr i.memSize (lowWord r.vSrc2 &&& BitVec.ofNat 32 (2 ^ (8 * i.memSize) - 1))
          else .none) }
    ((s.config.checker = .detached ∧ ref' = s.ref) ∨
      (s.config.checker = .attached ∧ refStep s.config s.ref = some (record, ref'))) →
    exec i s = .next { s with
      memory2Writeback := q
      x := writeGpr s.x i.dst o.vDst
      hilo := writeHilo s.hilo i.dst o.vDst
      sb := sbSet s.config s.sb true i.dst
      retireLog := s.retireLog ++ [record]
      ref := ref'
      executedInstrs := s.executedInstrs + 1
      lastWritebackCycle := s.cycle
      wbStatus := some (.retired r.pc) }

/-- 43_stages R212, 45_driver R269: with the checker attached, a record that differs from REF's ends the run with
CHECKER_MISMATCH and both records, after the record has been emitted and before the instruction is counted. That a REF
without a record is a mismatch too, reported with none in its place, is the model's choice (log 15). -/
def Obligations.CheckerMismatchEndsRun : Prop :=
  ∀ (i : Instr) (s : State) (r : InstrRec) (q : Port InstrRec), s.acting = .writeback → s.runStatus = .running →
    portRead s.cycle s.memory2Writeback = some (r, q) → s.config.checker = .attached →
    let record := retireRecord (.live i) r.raw r.pc r.vSrc2 r.out
    (refStep s.config s.ref).map Prod.fst ≠ some record →
    ∃ t, exec i s = .next t ∧
      t.runStatus = .faulted (.checkerMismatch record ((refStep s.config s.ref).map Prod.fst)) ∧
      t.retireLog = s.retireLog ++ [record] ∧ t.executedInstrs = s.executedInstrs ∧
      t.lastWritebackCycle = s.lastWritebackCycle

/-! ### Frames -/

/-- The frame of every instruction at Decode (43_stages R195 to R197): only the scoreboard bit of its destination, the
buffer, P2, P3, Decode's status and, on a fatal, the run status may change. -/
def Obligations.DecodeFrame : Prop :=
  ∀ (i : Instr) (s t : State), s.acting = .decode → exec i s = .next t →
    t = { s with
      sb := t.sb
      idBuf := t.idBuf
      decode2Execute := t.decode2Execute
      decode2FetchStall := t.decode2FetchStall
      idStatus := t.idStatus
      runStatus := t.runStatus } ∧
    (∀ r : RegIdx, i.dst ≠ some r → t.sb[r.val] = s.sb[r.val]) ∧ (∀ a, readByte t.mem a = readByte s.mem a)

/-- The frame of every instruction at Execute (43_stages R200): only P3, P5, Execute's status and, on a fatal, the run
status may change; no register, no scoreboard bit and no byte of memory does. -/
def Obligations.ExecuteFrame : Prop :=
  ∀ (i : Instr) (s t : State), s.acting = .execute → exec i s = .next t →
    t = { s with
      decode2Execute := t.decode2Execute
      execute2Memory := t.execute2Memory
      exStatus := t.exStatus
      runStatus := t.runStatus } ∧ (∀ a, readByte t.mem a = readByte s.mem a)

/-- The frame of every instruction at Memory (10_state R42, 43_stages R205 to R209): only P5, P7, the flush and target
ports, the BTB, Memory's status, the run status on a fatal, and memory may change; a form that stores nothing leaves
every byte, and a store leaves every byte outside the bytes at its record's address. -/
def Obligations.MemoryFrame : Prop :=
  ∀ (i : Instr) (s t : State), s.acting = .memory → exec i s = .next t →
    t = { s with
      execute2Memory := t.execute2Memory
      memory2Writeback := t.memory2Writeback
      memory2FetchFlush := t.memory2FetchFlush
      memory2DecodeFlush := t.memory2DecodeFlush
      memory2ExecuteFlush := t.memory2ExecuteFlush
      memory2MemoryFlush := t.memory2MemoryFlush
      memory2FetchTarget := t.memory2FetchTarget
      btb := t.btb
      mem := t.mem
      memStatus := t.memStatus
      runStatus := t.runStatus } ∧
    (i.isStore = false → ∀ a, readByte t.mem a = readByte s.mem a) ∧
    (∀ r q, portRead s.cycle s.execute2Memory = some (r, q) → ∀ a : Nat,
      (∀ k < i.memSize, a ≠ (r.out.memAddr + BitVec.ofNat 32 k).toNat) → readByte t.mem a = readByte s.mem a)

/-- The frame of every instruction at Writeback (43_stages R211 to R213, 10_state R23): every register but the
destination, every scoreboard bit but its own, every byte of memory, the PC, the other ports and the BTB stay. -/
def Obligations.WritebackFrame : Prop :=
  ∀ (i : Instr) (s t : State), s.acting = .writeback → exec i s = .next t →
    t = { s with
      memory2Writeback := t.memory2Writeback
      x := t.x
      hilo := t.hilo
      sb := t.sb
      ref := t.ref
      retireLog := t.retireLog
      executedInstrs := t.executedInstrs
      lastWritebackCycle := t.lastWritebackCycle
      wbStatus := t.wbStatus
      runStatus := t.runStatus } ∧
    (∀ r : RegIdx, i.dst ≠ some r → readReg t.x t.hilo r = readReg s.x s.hilo r ∧ t.sb[r.val] = s.sb[r.val]) ∧
    (∀ a, readByte t.mem a = readByte s.mem a)

/-! ### The step -/

/-- A step runs the decoded instruction (43_stages R180, R217): Decode runs, by `exec`, the instruction its packet
decodes to, on the state Fetch leaves; Execute, Memory and Writeback run the instruction of the record they read; the
driver's end of the cycle follows. Decode keeps a buffered packet, and otherwise takes the oldest one of P1 if it is
ready (R192). A stage that finds nothing shows `idle` and does nothing else (R192, R199, R203, R210). -/
def Obligations.StepRunsDecodedInstruction : Prop :=
  (∀ (s s1 : State) (p : IfIdData) (i : Instr), s.runStatus = .running → s.executedInstrs < s.config.instrsToRun →
    fetchStage s.beginCycle = .next s1 → s1.runStatus = .running → s1.execute2DecodeStall = [] →
    s1.memory2DecodeFlush = [] → s1.takePacket.idBuf = some p → decodeWord s1.config.isa p.raw p.pc = .instr i →
    step s = andThenStage (andThenStage (andThenStage (andThenStage (exec i { s1.takePacket with acting := .decode })
      executeStage) memoryStage) writebackStage) fun t => .next t.endCycle) ∧
  (∀ (s : State) (r : InstrRec) (q : Port InstrRec) (i : Instr), r.body = .live i →
    (s.memory2ExecuteStall = [] → s.memory2ExecuteFlush = [] → portRead s.cycle s.decode2Execute = some (r, q) →
      executeStage s = exec i { s with acting := .execute }) ∧
    (s.writeback2MemoryStall = [] → s.memory2MemoryFlush = [] → portRead s.cycle s.execute2Memory = some (r, q) →
      memoryStage s = exec i { s with acting := .memory }) ∧
    (portRead s.cycle s.memory2Writeback = some (r, q) → writebackStage s = exec i { s with acting := .writeback })) ∧
  (∀ s : State,
    (s.idBuf ≠ none → s.takePacket = s) ∧
    (∀ (e : Entry IfIdData) (q : Port IfIdData), s.idBuf = none → s.fetch2Decode = e :: q →
      s.takePacket = if e.cycleWritten < s.cycle then { s with fetch2Decode := q, idBuf := some e.value } else s) ∧
    (s.fetch2Decode = [] → s.takePacket = s)) ∧
  (∀ s : State,
    (s.execute2DecodeStall = [] → s.memory2DecodeFlush = [] → s.idBuf = none →
      (∀ e ∈ s.fetch2Decode.head?, s.cycle ≤ e.cycleWritten) →
      decodeStage s = .next { s with acting := .decode, idStatus := some .idle }) ∧
    (s.memory2ExecuteStall = [] → s.memory2ExecuteFlush = [] →
      (∀ e ∈ s.decode2Execute.head?, s.cycle ≤ e.cycleWritten) →
      executeStage s = .next { s with acting := .execute, exStatus := some .idle }) ∧
    (s.writeback2MemoryStall = [] → s.memory2MemoryFlush = [] →
      (∀ e ∈ s.execute2Memory.head?, s.cycle ≤ e.cycleWritten) →
      memoryStage s = .next { s with acting := .memory, memStatus := some .idle }) ∧
    ((∀ e ∈ s.memory2Writeback.head?, s.cycle ≤ e.cycleWritten) →
      writebackStage s = .next { s with acting := .writeback, wbStatus := some .idle }))

/-- A step of every state answers a next state: no fault and no refusal of the model can end a run; the spec's fatals
are states (60_exceptions R283). That a fatal is a next state is the model's reading (log 8). -/
def Obligations.StepAlwaysAnswersNext : Prop := ∀ s : State, ∃ t, step s = .next t

/-- 10_state R40: `done` and `faulted` are terminal. -/
def Obligations.TerminalStateStays : Prop := ∀ s : State, s.terminal → step s = .next s

/-- 45_driver R261 to R263: a cycle without a fatal adds one to `cycle`, retires at most one instruction, ends the run
exactly when the budget is met, and leaves the watchdog unfired. -/
def Obligations.CycleCountsAndEndsOnBudget : Prop :=
  ∀ s t : State, s.runStatus = .running → s.executedInstrs < s.config.instrsToRun → step s = .next t → ¬ t.faultedRun →
    t.cycle = s.cycle + 1 ∧
    ((t.executedInstrs = s.executedInstrs ∧ t.lastWritebackCycle = s.lastWritebackCycle ∧ t.retireLog = s.retireLog) ∨
      (t.executedInstrs = s.executedInstrs + 1 ∧ t.lastWritebackCycle = s.cycle ∧
        ∃ record, t.retireLog = s.retireLog ++ [record])) ∧
    (t.runStatus = .done ↔ t.config.instrsToRun ≤ t.executedInstrs) ∧
    t.cycle - t.lastWritebackCycle < t.config.watchdogLimit

/-- 60_exceptions R283, 45_driver R263: a fatal inside a cycle does not count the cycle; DEADLOCK, tested after it, is
raised at the counted cycle and only when WATCHDOG_LIMIT cycles have passed without a writeback. -/
def Obligations.FatalLeavesCycleUncounted : Prop :=
  ∀ (s t : State) (f : Fatal), s.runStatus = .running → step s = .next t → t.runStatus = .faulted f →
    (t.cycle = s.cycle ∧ ∀ k, f ≠ .deadlock k) ∨
    (t.cycle = s.cycle + 1 ∧ f = .deadlock t.cycle ∧ t.config.watchdogLimit ≤ t.cycle - t.lastWritebackCycle)

/-- 45_driver R265: with an empty budget the run ends at once, with nothing fetched and no IPC. -/
def Obligations.EmptyBudgetEndsAtOnce : Prop :=
  ∀ l : Launch, (construct l).runStatus = .running → l.config.instrsToRun = 0 →
    step (construct l) = .next { construct l with runStatus := .done } ∧
    (construct l).cycle = 0 ∧ (construct l).executedInstrs = 0 ∧
    ({ construct l with runStatus := .done } : State).ipc = none

/-- 45_driver R266: every run ends, whatever the program, by the end of cycle INSTRS_TO_RUN × (WATCHDOG_LIMIT - 1);
that this includes a launch with the limit 0, which ends after one cycle, is the model's choice (log 24). -/
def Obligations.EveryRunEnds : Prop :=
  ∀ (l : Launch) (k : Nat), l.config.instrsToRun * (l.config.watchdogLimit - 1) + 1 ≤ k →
    ∃ t : State, Host.Core.run Sys2Proof.core k (construct l) = .next t ∧ t.terminal

/-- 70_reset R313: no instruction retires before cycle 4, and a run that has retired n > 0 instructions has run at least
n + 4 cycles; a run of a non-empty budget N that ends `done` has retired N instructions in at least N + 4 cycles, and its
IPC is N / cycle, positive, at most N / (N + 4) and below 1. -/
def Obligations.IpcBelowOne : Prop :=
  (∀ (l : Launch) (k : Nat) (t : State), Host.Core.run Sys2Proof.core k (construct l) = .next t → ¬ t.faultedRun →
    0 < t.executedInstrs → 4 ≤ t.lastWritebackCycle ∧ t.executedInstrs + 4 ≤ t.cycle) ∧
  ∀ (l : Launch) (k : Nat) (t : State), Host.Core.run Sys2Proof.core k (construct l) = .next t → t.runStatus = .done →
    0 < l.config.instrsToRun →
    t.executedInstrs = l.config.instrsToRun ∧ l.config.instrsToRun + 4 ≤ t.cycle ∧
    ∃ q : Rat, t.ipc = some q ∧ q = (l.config.instrsToRun : Rat) / (t.cycle : Rat) ∧ 0 < q ∧
      q ≤ (l.config.instrsToRun : Rat) / ((l.config.instrsToRun : Rat) + 4) ∧ q < 1

/-! ### Reset and invariants -/

/-- 70_reset R301, R303: what construction leaves of a legal launch, every field. -/
def Obligations.LaunchIsClean : Prop :=
  ∀ l : Launch, l.config.legal = true →
    (construct l).runStatus = .running ∧ (construct l).config = l.config ∧
    (∀ r : RegIdx, readReg (construct l).x (construct l).hilo r =
      if r = 0 then 0 else if h : r.val < 32 then wideWord l.rfInit[r.val] else l.hiloInit) ∧
    (∀ r : RegIdx, (construct l).sb[r.val] = true) ∧ (construct l).pc = l.config.startPc ∧
    (construct l).idBuf = none ∧ (construct l).inFlight = [] ∧ (construct l).fetch2Decode = [] ∧
    (construct l).decode2FetchStall = [] ∧ (construct l).execute2DecodeStall = [] ∧
    (construct l).memory2ExecuteStall = [] ∧ (construct l).writeback2MemoryStall = [] ∧
    (construct l).memory2FetchFlush = [] ∧ (construct l).memory2DecodeFlush = [] ∧
    (construct l).memory2ExecuteFlush = [] ∧ (construct l).memory2MemoryFlush = [] ∧
    (construct l).memory2FetchTarget = [] ∧ (construct l).mem = l.memInit ∧ (construct l).cycle = 0 ∧
    (construct l).executedInstrs = 0 ∧ (construct l).lastWritebackCycle = 0 ∧ (construct l).retireLog = [] ∧
    (construct l).btb.length = l.config.sets ∧
    (∀ b ∈ (construct l).btb, b.lru = List.range l.config.btbWays ∧ b.tags = List.replicate l.config.btbWays none ∧
      b.data = List.replicate l.config.btbWays
        { stateTable := List.replicate (2 ^ l.config.predictionLevel) (l.config.meanState - 1), currentPattern := 0, target := 0 }) ∧
    refCoherent { raw := 0, pc := l.config.startPc, predictedTaken := false, predictedTarget := 0 } (construct l)

/-- The invariants hold of every legal launch with a canonical memory image, and so of State.reset, whose open values
are the model's choice (log 1 to 5, 21). -/
def Obligations.InvariantsHoldAtLaunch : Prop :=
  (∀ l : Launch, l.config.legal = true → Memory.wf l.memInit = true →
    MemoryInv (construct l) ∧ BtbInv (construct l) ∧ PipelineInv (construct l) ∧ CounterInv (construct l) ∧
    FillInv (construct l)) ∧
  MemoryInv State.reset ∧ BtbInv State.reset ∧ PipelineInv State.reset ∧ CounterInv State.reset ∧ FillInv State.reset

/-- Every step keeps both memories, the CORE's and REF's, in canonical form. The form is the model's own way to hold
memory (log 3); no rule of the spec gives it. -/
def Obligations.StepKeepsMemoryCanonical : Prop := ∀ s t : State, MemoryInv s → step s = .next t → MemoryInv t

/-- Every step keeps the BTB in its shape: counters in range (41_branch_predictor R129), patterns L bits wide, tags in
their width and distinct within a set (R126), the recency order a permutation of the ways (10_state R30). -/
def Obligations.StepKeepsPredictorShape : Prop := ∀ s t : State, BtbInv s → step s = .next t → BtbInv t

/-- 42_scoreboard R167, R168 and 40_port_fabric R110: every step keeps the scoreboard balanced with the records in
flight, at most one writer of a register in flight, and every data and control port at one entry at most. -/
def Obligations.StepKeepsScoreboardBalance : Prop := ∀ s t : State, PipelineInv s → step s = .next t → PipelineInv t

/-- 45_driver R262, R263, R268: every step keeps the counters within the budget and the watchdog, and the number of
retire records equal to the number of retired instructions. A REF that is not the canonical one keeps the launch state
it was initialised with, and moves by at most one record of its own in a step (45_driver R269); that its records are a
function of that launch state and of the number of its steps is the model's choice (log 16). -/
def Obligations.StepKeepsCounters : Prop :=
  (∀ s t : State, CounterInv s → step s = .next t → CounterInv t) ∧
  ∀ (s t : State) (key : Nat), s.config.refModel = .external key → step s = .next t →
    t.ref = s.ref ∨
    (s.config.checker = .attached ∧ t.ref = { s.ref with steps := s.ref.steps + 1 } ∧
      refStep s.config s.ref = some
        (Config.refRecord key
          { startPc := s.ref.pcf, rfInit := s.ref.xf, hiloInit := s.ref.hilof, memInit := s.ref.memf } s.ref.steps, t.ref))

/-- 70_reset R309: every step keeps the pipeline's fill: no instruction overtakes the latency of the stages. -/
def Obligations.StepKeepsPipelineFill : Prop := ∀ s t : State, FillInv s → step s = .next t → FillInv t

/-! ### The whole machine -/

/-- 10_state R23, R36, R42: in a step, a register that changes is the destination of the instruction that retires in it,
and its new value is the recorded result; the configuration never changes, and the retire log only grows. -/
def Obligations.OnlyRetirementWritesRegisters : Prop :=
  ∀ s t : State, step s = .next t →
    t.config = s.config ∧ s.retireLog <+: t.retireLog ∧
    ∀ r : RegIdx, readReg t.x t.hilo r ≠ readReg s.x s.hilo r →
      ∃ record v, t.retireLog = s.retireLog ++ [record] ∧ record.dst = some r ∧ record.vDst = some v ∧
        readReg t.x t.hilo r = (if r.val = 32 then v else wideWord (lowWord v))

/-- 20_memory R69, 10_state R42: in a step that raises no fatal, a byte of memory that changes is one of the bytes of
the store that Memory processed in that cycle, which now waits for Writeback. -/
def Obligations.OnlyStoresChangeMemory : Prop :=
  ∀ s t : State, step s = .next t → ¬ t.faultedRun → ∀ a : Nat, readByte t.mem a ≠ readByte s.mem a →
    ∃ e ∈ t.memory2Writeback, e.cycleWritten = s.cycle ∧
      ∃ i : Instr, e.value.body = .live i ∧ i.isStore = true ∧
        ∃ k < i.memSize, a = (e.value.out.memAddr + BitVec.ofNat 32 k).toNat

/-- 45_driver R269, R270 for one instruction (where REF has no record is the model's choice, log 15): passed alone through Decode, Execute, Memory and Writeback, an instruction
does to registers and memory exactly what one step of the canonical REF does, and retires with REF's record; where REF
has no record because the access is misaligned, the run ends with MISALIGNED. -/
def Obligations.InstructionAloneMatchesReference : Prop :=
  ∀ (i : Instr) (p : IfIdData) (s : State), aloneAtDecode p s → refCoherent p s → s.config.refModel = .canonical →
    memRead s.config s.mem p.pc 4 = .ok p.raw → decodeWord s.config.isa p.raw p.pc = .instr i →
    (∀ record ref', refStep s.config s.ref = some (record, ref') →
      ∃ t, passAlone i s = .next t ∧ t.runStatus = .running ∧ t.x = ref'.xf ∧ t.hilo = ref'.hilof ∧ t.mem = ref'.memf ∧
        t.retireLog = s.retireLog ++ [record] ∧ t.executedInstrs = s.executedInstrs + 1 ∧
        t.lastWritebackCycle = s.cycle + 3 ∧ record.pc = p.pc ∧ ref'.pcf = record.newPc ∧
        t.sb = s.sb ∧ (s.config.checker = .attached → t.ref = ref')) ∧
    (refStep s.config s.ref = none →
      ∃ t addr, passAlone i s = .next t ∧ t.runStatus = .faulted (.misaligned addr i.memSize) ∧ t.x = s.x ∧
        t.hilo = s.hilo ∧ t.mem = s.mem ∧ t.retireLog = s.retireLog)
end

