-- ==== Sys2Proof/Laws/Decode.lean ====
section
/-!
SUPPORT. Small laws of decoding (30_encoding R86, R87).
-/

namespace Sys2Proof

/-- A rejected decoding is `invalid`, any other is its instruction. -/
theorem Decoded.ofOption_eq_elim (o : Option Instr) : Decoded.ofOption o = o.elim .invalid .instr := by cases o <;> rfl

end Sys2Proof
end

