-- ==== Sys2Proof/Laws/State.lean ====
section
/-!
SUPPORT. One lemma per field for each named update of the state: the fields it leaves alone, and the one it writes.
-/

namespace Sys2Proof.Machine

variable (s : State)

/-! ### raise -/

@[simp] theorem State.raise_config (f : Fatal) : (s.raise f).config = s.config := rfl
@[simp] theorem State.raise_x (f : Fatal) : (s.raise f).x = s.x := rfl
@[simp] theorem State.raise_hilo (f : Fatal) : (s.raise f).hilo = s.hilo := rfl
@[simp] theorem State.raise_sb (f : Fatal) : (s.raise f).sb = s.sb := rfl
@[simp] theorem State.raise_pc (f : Fatal) : (s.raise f).pc = s.pc := rfl
@[simp] theorem State.raise_idBuf (f : Fatal) : (s.raise f).idBuf = s.idBuf := rfl
@[simp] theorem State.raise_fetch2Decode (f : Fatal) : (s.raise f).fetch2Decode = s.fetch2Decode := rfl
@[simp] theorem State.raise_decode2FetchStall (f : Fatal) : (s.raise f).decode2FetchStall = s.decode2FetchStall := rfl
@[simp] theorem State.raise_decode2Execute (f : Fatal) : (s.raise f).decode2Execute = s.decode2Execute := rfl
@[simp] theorem State.raise_execute2DecodeStall (f : Fatal) : (s.raise f).execute2DecodeStall = s.execute2DecodeStall := rfl
@[simp] theorem State.raise_execute2Memory (f : Fatal) : (s.raise f).execute2Memory = s.execute2Memory := rfl
@[simp] theorem State.raise_memory2ExecuteStall (f : Fatal) : (s.raise f).memory2ExecuteStall = s.memory2ExecuteStall := rfl
@[simp] theorem State.raise_memory2Writeback (f : Fatal) : (s.raise f).memory2Writeback = s.memory2Writeback := rfl
@[simp] theorem State.raise_writeback2MemoryStall (f : Fatal) : (s.raise f).writeback2MemoryStall = s.writeback2MemoryStall := rfl
@[simp] theorem State.raise_memory2FetchFlush (f : Fatal) : (s.raise f).memory2FetchFlush = s.memory2FetchFlush := rfl
@[simp] theorem State.raise_memory2DecodeFlush (f : Fatal) : (s.raise f).memory2DecodeFlush = s.memory2DecodeFlush := rfl
@[simp] theorem State.raise_memory2ExecuteFlush (f : Fatal) : (s.raise f).memory2ExecuteFlush = s.memory2ExecuteFlush := rfl
@[simp] theorem State.raise_memory2MemoryFlush (f : Fatal) : (s.raise f).memory2MemoryFlush = s.memory2MemoryFlush := rfl
@[simp] theorem State.raise_memory2FetchTarget (f : Fatal) : (s.raise f).memory2FetchTarget = s.memory2FetchTarget := rfl
@[simp] theorem State.raise_btb (f : Fatal) : (s.raise f).btb = s.btb := rfl
@[simp] theorem State.raise_mem (f : Fatal) : (s.raise f).mem = s.mem := rfl
@[simp] theorem State.raise_cycle (f : Fatal) : (s.raise f).cycle = s.cycle := rfl
@[simp] theorem State.raise_executedInstrs (f : Fatal) : (s.raise f).executedInstrs = s.executedInstrs := rfl
@[simp] theorem State.raise_lastWritebackCycle (f : Fatal) : (s.raise f).lastWritebackCycle = s.lastWritebackCycle := rfl
@[simp] theorem State.raise_runStatus (f : Fatal) : (s.raise f).runStatus = .faulted f := rfl
@[simp] theorem State.raise_ref (f : Fatal) : (s.raise f).ref = s.ref := rfl
@[simp] theorem State.raise_ifStatus (f : Fatal) : (s.raise f).ifStatus = s.ifStatus := rfl
@[simp] theorem State.raise_idStatus (f : Fatal) : (s.raise f).idStatus = s.idStatus := rfl
@[simp] theorem State.raise_exStatus (f : Fatal) : (s.raise f).exStatus = s.exStatus := rfl
@[simp] theorem State.raise_memStatus (f : Fatal) : (s.raise f).memStatus = s.memStatus := rfl
@[simp] theorem State.raise_wbStatus (f : Fatal) : (s.raise f).wbStatus = s.wbStatus := rfl
@[simp] theorem State.raise_retireLog (f : Fatal) : (s.raise f).retireLog = s.retireLog := rfl
@[simp] theorem State.raise_acting (f : Fatal) : (s.raise f).acting = s.acting := rfl

/-! ### Scoreboard updates -/

@[simp] theorem State.invalidate_config (r : Option RegIdx) : (s.invalidate r).config = s.config := rfl
@[simp] theorem State.invalidate_x (r : Option RegIdx) : (s.invalidate r).x = s.x := rfl
@[simp] theorem State.invalidate_hilo (r : Option RegIdx) : (s.invalidate r).hilo = s.hilo := rfl
@[simp] theorem State.invalidate_sb (r : Option RegIdx) : (s.invalidate r).sb = sbSet s.config s.sb false r := rfl
@[simp] theorem State.invalidate_pc (r : Option RegIdx) : (s.invalidate r).pc = s.pc := rfl
@[simp] theorem State.invalidate_idBuf (r : Option RegIdx) : (s.invalidate r).idBuf = s.idBuf := rfl
@[simp] theorem State.invalidate_fetch2Decode (r : Option RegIdx) : (s.invalidate r).fetch2Decode = s.fetch2Decode := rfl
@[simp] theorem State.invalidate_decode2FetchStall (r : Option RegIdx) : (s.invalidate r).decode2FetchStall = s.decode2FetchStall := rfl
@[simp] theorem State.invalidate_decode2Execute (r : Option RegIdx) : (s.invalidate r).decode2Execute = s.decode2Execute := rfl
@[simp] theorem State.invalidate_execute2DecodeStall (r : Option RegIdx) : (s.invalidate r).execute2DecodeStall = s.execute2DecodeStall := rfl
@[simp] theorem State.invalidate_execute2Memory (r : Option RegIdx) : (s.invalidate r).execute2Memory = s.execute2Memory := rfl
@[simp] theorem State.invalidate_memory2ExecuteStall (r : Option RegIdx) : (s.invalidate r).memory2ExecuteStall = s.memory2ExecuteStall := rfl
@[simp] theorem State.invalidate_memory2Writeback (r : Option RegIdx) : (s.invalidate r).memory2Writeback = s.memory2Writeback := rfl
@[simp] theorem State.invalidate_writeback2MemoryStall (r : Option RegIdx) : (s.invalidate r).writeback2MemoryStall = s.writeback2MemoryStall := rfl
@[simp] theorem State.invalidate_memory2FetchFlush (r : Option RegIdx) : (s.invalidate r).memory2FetchFlush = s.memory2FetchFlush := rfl
@[simp] theorem State.invalidate_memory2DecodeFlush (r : Option RegIdx) : (s.invalidate r).memory2DecodeFlush = s.memory2DecodeFlush := rfl
@[simp] theorem State.invalidate_memory2ExecuteFlush (r : Option RegIdx) : (s.invalidate r).memory2ExecuteFlush = s.memory2ExecuteFlush := rfl
@[simp] theorem State.invalidate_memory2MemoryFlush (r : Option RegIdx) : (s.invalidate r).memory2MemoryFlush = s.memory2MemoryFlush := rfl
@[simp] theorem State.invalidate_memory2FetchTarget (r : Option RegIdx) : (s.invalidate r).memory2FetchTarget = s.memory2FetchTarget := rfl
@[simp] theorem State.invalidate_btb (r : Option RegIdx) : (s.invalidate r).btb = s.btb := rfl
@[simp] theorem State.invalidate_mem (r : Option RegIdx) : (s.invalidate r).mem = s.mem := rfl
@[simp] theorem State.invalidate_cycle (r : Option RegIdx) : (s.invalidate r).cycle = s.cycle := rfl
@[simp] theorem State.invalidate_executedInstrs (r : Option RegIdx) : (s.invalidate r).executedInstrs = s.executedInstrs := rfl
@[simp] theorem State.invalidate_lastWritebackCycle (r : Option RegIdx) : (s.invalidate r).lastWritebackCycle = s.lastWritebackCycle := rfl
@[simp] theorem State.invalidate_runStatus (r : Option RegIdx) : (s.invalidate r).runStatus = s.runStatus := rfl
@[simp] theorem State.invalidate_ref (r : Option RegIdx) : (s.invalidate r).ref = s.ref := rfl
@[simp] theorem State.invalidate_ifStatus (r : Option RegIdx) : (s.invalidate r).ifStatus = s.ifStatus := rfl
@[simp] theorem State.invalidate_idStatus (r : Option RegIdx) : (s.invalidate r).idStatus = s.idStatus := rfl
@[simp] theorem State.invalidate_exStatus (r : Option RegIdx) : (s.invalidate r).exStatus = s.exStatus := rfl
@[simp] theorem State.invalidate_memStatus (r : Option RegIdx) : (s.invalidate r).memStatus = s.memStatus := rfl
@[simp] theorem State.invalidate_wbStatus (r : Option RegIdx) : (s.invalidate r).wbStatus = s.wbStatus := rfl
@[simp] theorem State.invalidate_retireLog (r : Option RegIdx) : (s.invalidate r).retireLog = s.retireLog := rfl
@[simp] theorem State.invalidate_acting (r : Option RegIdx) : (s.invalidate r).acting = s.acting := rfl
@[simp] theorem State.validate_config (r : Option RegIdx) : (s.validate r).config = s.config := rfl
@[simp] theorem State.validate_x (r : Option RegIdx) : (s.validate r).x = s.x := rfl
@[simp] theorem State.validate_hilo (r : Option RegIdx) : (s.validate r).hilo = s.hilo := rfl
@[simp] theorem State.validate_sb (r : Option RegIdx) : (s.validate r).sb = sbSet s.config s.sb true r := rfl
@[simp] theorem State.validate_pc (r : Option RegIdx) : (s.validate r).pc = s.pc := rfl
@[simp] theorem State.validate_idBuf (r : Option RegIdx) : (s.validate r).idBuf = s.idBuf := rfl
@[simp] theorem State.validate_fetch2Decode (r : Option RegIdx) : (s.validate r).fetch2Decode = s.fetch2Decode := rfl
@[simp] theorem State.validate_decode2FetchStall (r : Option RegIdx) : (s.validate r).decode2FetchStall = s.decode2FetchStall := rfl
@[simp] theorem State.validate_decode2Execute (r : Option RegIdx) : (s.validate r).decode2Execute = s.decode2Execute := rfl
@[simp] theorem State.validate_execute2DecodeStall (r : Option RegIdx) : (s.validate r).execute2DecodeStall = s.execute2DecodeStall := rfl
@[simp] theorem State.validate_execute2Memory (r : Option RegIdx) : (s.validate r).execute2Memory = s.execute2Memory := rfl
@[simp] theorem State.validate_memory2ExecuteStall (r : Option RegIdx) : (s.validate r).memory2ExecuteStall = s.memory2ExecuteStall := rfl
@[simp] theorem State.validate_memory2Writeback (r : Option RegIdx) : (s.validate r).memory2Writeback = s.memory2Writeback := rfl
@[simp] theorem State.validate_writeback2MemoryStall (r : Option RegIdx) : (s.validate r).writeback2MemoryStall = s.writeback2MemoryStall := rfl
@[simp] theorem State.validate_memory2FetchFlush (r : Option RegIdx) : (s.validate r).memory2FetchFlush = s.memory2FetchFlush := rfl
@[simp] theorem State.validate_memory2DecodeFlush (r : Option RegIdx) : (s.validate r).memory2DecodeFlush = s.memory2DecodeFlush := rfl
@[simp] theorem State.validate_memory2ExecuteFlush (r : Option RegIdx) : (s.validate r).memory2ExecuteFlush = s.memory2ExecuteFlush := rfl
@[simp] theorem State.validate_memory2MemoryFlush (r : Option RegIdx) : (s.validate r).memory2MemoryFlush = s.memory2MemoryFlush := rfl
@[simp] theorem State.validate_memory2FetchTarget (r : Option RegIdx) : (s.validate r).memory2FetchTarget = s.memory2FetchTarget := rfl
@[simp] theorem State.validate_btb (r : Option RegIdx) : (s.validate r).btb = s.btb := rfl
@[simp] theorem State.validate_mem (r : Option RegIdx) : (s.validate r).mem = s.mem := rfl
@[simp] theorem State.validate_cycle (r : Option RegIdx) : (s.validate r).cycle = s.cycle := rfl
@[simp] theorem State.validate_executedInstrs (r : Option RegIdx) : (s.validate r).executedInstrs = s.executedInstrs := rfl
@[simp] theorem State.validate_lastWritebackCycle (r : Option RegIdx) : (s.validate r).lastWritebackCycle = s.lastWritebackCycle := rfl
@[simp] theorem State.validate_runStatus (r : Option RegIdx) : (s.validate r).runStatus = s.runStatus := rfl
@[simp] theorem State.validate_ref (r : Option RegIdx) : (s.validate r).ref = s.ref := rfl
@[simp] theorem State.validate_ifStatus (r : Option RegIdx) : (s.validate r).ifStatus = s.ifStatus := rfl
@[simp] theorem State.validate_idStatus (r : Option RegIdx) : (s.validate r).idStatus = s.idStatus := rfl
@[simp] theorem State.validate_exStatus (r : Option RegIdx) : (s.validate r).exStatus = s.exStatus := rfl
@[simp] theorem State.validate_memStatus (r : Option RegIdx) : (s.validate r).memStatus = s.memStatus := rfl
@[simp] theorem State.validate_wbStatus (r : Option RegIdx) : (s.validate r).wbStatus = s.wbStatus := rfl
@[simp] theorem State.validate_retireLog (r : Option RegIdx) : (s.validate r).retireLog = s.retireLog := rfl
@[simp] theorem State.validate_acting (r : Option RegIdx) : (s.validate r).acting = s.acting := rfl

/-! ### Register write -/

@[simp] theorem State.writeDst_config (dst : Option RegIdx) (v : DWord) : (s.writeDst dst v).config = s.config := rfl
@[simp] theorem State.writeDst_x (dst : Option RegIdx) (v : DWord) : (s.writeDst dst v).x = writeGpr s.x dst v := rfl
@[simp] theorem State.writeDst_hilo (dst : Option RegIdx) (v : DWord) : (s.writeDst dst v).hilo = writeHilo s.hilo dst v := rfl
@[simp] theorem State.writeDst_sb (dst : Option RegIdx) (v : DWord) : (s.writeDst dst v).sb = sbSet s.config s.sb true dst := rfl
@[simp] theorem State.writeDst_pc (dst : Option RegIdx) (v : DWord) : (s.writeDst dst v).pc = s.pc := rfl
@[simp] theorem State.writeDst_idBuf (dst : Option RegIdx) (v : DWord) : (s.writeDst dst v).idBuf = s.idBuf := rfl
@[simp] theorem State.writeDst_fetch2Decode (dst : Option RegIdx) (v : DWord) : (s.writeDst dst v).fetch2Decode = s.fetch2Decode := rfl
@[simp] theorem State.writeDst_decode2FetchStall (dst : Option RegIdx) (v : DWord) : (s.writeDst dst v).decode2FetchStall = s.decode2FetchStall := rfl
@[simp] theorem State.writeDst_decode2Execute (dst : Option RegIdx) (v : DWord) : (s.writeDst dst v).decode2Execute = s.decode2Execute := rfl
@[simp] theorem State.writeDst_execute2DecodeStall (dst : Option RegIdx) (v : DWord) : (s.writeDst dst v).execute2DecodeStall = s.execute2DecodeStall := rfl
@[simp] theorem State.writeDst_execute2Memory (dst : Option RegIdx) (v : DWord) : (s.writeDst dst v).execute2Memory = s.execute2Memory := rfl
@[simp] theorem State.writeDst_memory2ExecuteStall (dst : Option RegIdx) (v : DWord) : (s.writeDst dst v).memory2ExecuteStall = s.memory2ExecuteStall := rfl
@[simp] theorem State.writeDst_memory2Writeback (dst : Option RegIdx) (v : DWord) : (s.writeDst dst v).memory2Writeback = s.memory2Writeback := rfl
@[simp] theorem State.writeDst_writeback2MemoryStall (dst : Option RegIdx) (v : DWord) : (s.writeDst dst v).writeback2MemoryStall = s.writeback2MemoryStall := rfl
@[simp] theorem State.writeDst_memory2FetchFlush (dst : Option RegIdx) (v : DWord) : (s.writeDst dst v).memory2FetchFlush = s.memory2FetchFlush := rfl
@[simp] theorem State.writeDst_memory2DecodeFlush (dst : Option RegIdx) (v : DWord) : (s.writeDst dst v).memory2DecodeFlush = s.memory2DecodeFlush := rfl
@[simp] theorem State.writeDst_memory2ExecuteFlush (dst : Option RegIdx) (v : DWord) : (s.writeDst dst v).memory2ExecuteFlush = s.memory2ExecuteFlush := rfl
@[simp] theorem State.writeDst_memory2MemoryFlush (dst : Option RegIdx) (v : DWord) : (s.writeDst dst v).memory2MemoryFlush = s.memory2MemoryFlush := rfl
@[simp] theorem State.writeDst_memory2FetchTarget (dst : Option RegIdx) (v : DWord) : (s.writeDst dst v).memory2FetchTarget = s.memory2FetchTarget := rfl
@[simp] theorem State.writeDst_btb (dst : Option RegIdx) (v : DWord) : (s.writeDst dst v).btb = s.btb := rfl
@[simp] theorem State.writeDst_mem (dst : Option RegIdx) (v : DWord) : (s.writeDst dst v).mem = s.mem := rfl
@[simp] theorem State.writeDst_cycle (dst : Option RegIdx) (v : DWord) : (s.writeDst dst v).cycle = s.cycle := rfl
@[simp] theorem State.writeDst_executedInstrs (dst : Option RegIdx) (v : DWord) : (s.writeDst dst v).executedInstrs = s.executedInstrs := rfl
@[simp] theorem State.writeDst_lastWritebackCycle (dst : Option RegIdx) (v : DWord) : (s.writeDst dst v).lastWritebackCycle = s.lastWritebackCycle := rfl
@[simp] theorem State.writeDst_runStatus (dst : Option RegIdx) (v : DWord) : (s.writeDst dst v).runStatus = s.runStatus := rfl
@[simp] theorem State.writeDst_ref (dst : Option RegIdx) (v : DWord) : (s.writeDst dst v).ref = s.ref := rfl
@[simp] theorem State.writeDst_ifStatus (dst : Option RegIdx) (v : DWord) : (s.writeDst dst v).ifStatus = s.ifStatus := rfl
@[simp] theorem State.writeDst_idStatus (dst : Option RegIdx) (v : DWord) : (s.writeDst dst v).idStatus = s.idStatus := rfl
@[simp] theorem State.writeDst_exStatus (dst : Option RegIdx) (v : DWord) : (s.writeDst dst v).exStatus = s.exStatus := rfl
@[simp] theorem State.writeDst_memStatus (dst : Option RegIdx) (v : DWord) : (s.writeDst dst v).memStatus = s.memStatus := rfl
@[simp] theorem State.writeDst_wbStatus (dst : Option RegIdx) (v : DWord) : (s.writeDst dst v).wbStatus = s.wbStatus := rfl
@[simp] theorem State.writeDst_retireLog (dst : Option RegIdx) (v : DWord) : (s.writeDst dst v).retireLog = s.retireLog := rfl
@[simp] theorem State.writeDst_acting (dst : Option RegIdx) (v : DWord) : (s.writeDst dst v).acting = s.acting := rfl

/-! ### Next cycle (model's own) -/

@[simp] theorem State.nextCycle_config (g : Stage) : (s.nextCycle g).config = s.config := rfl
@[simp] theorem State.nextCycle_x (g : Stage) : (s.nextCycle g).x = s.x := rfl
@[simp] theorem State.nextCycle_hilo (g : Stage) : (s.nextCycle g).hilo = s.hilo := rfl
@[simp] theorem State.nextCycle_sb (g : Stage) : (s.nextCycle g).sb = s.sb := rfl
@[simp] theorem State.nextCycle_pc (g : Stage) : (s.nextCycle g).pc = s.pc := rfl
@[simp] theorem State.nextCycle_idBuf (g : Stage) : (s.nextCycle g).idBuf = s.idBuf := rfl
@[simp] theorem State.nextCycle_fetch2Decode (g : Stage) : (s.nextCycle g).fetch2Decode = s.fetch2Decode := rfl
@[simp] theorem State.nextCycle_decode2FetchStall (g : Stage) : (s.nextCycle g).decode2FetchStall = s.decode2FetchStall := rfl
@[simp] theorem State.nextCycle_decode2Execute (g : Stage) : (s.nextCycle g).decode2Execute = s.decode2Execute := rfl
@[simp] theorem State.nextCycle_execute2DecodeStall (g : Stage) : (s.nextCycle g).execute2DecodeStall = s.execute2DecodeStall := rfl
@[simp] theorem State.nextCycle_execute2Memory (g : Stage) : (s.nextCycle g).execute2Memory = s.execute2Memory := rfl
@[simp] theorem State.nextCycle_memory2ExecuteStall (g : Stage) : (s.nextCycle g).memory2ExecuteStall = s.memory2ExecuteStall := rfl
@[simp] theorem State.nextCycle_memory2Writeback (g : Stage) : (s.nextCycle g).memory2Writeback = s.memory2Writeback := rfl
@[simp] theorem State.nextCycle_writeback2MemoryStall (g : Stage) : (s.nextCycle g).writeback2MemoryStall = s.writeback2MemoryStall := rfl
@[simp] theorem State.nextCycle_memory2FetchFlush (g : Stage) : (s.nextCycle g).memory2FetchFlush = s.memory2FetchFlush := rfl
@[simp] theorem State.nextCycle_memory2DecodeFlush (g : Stage) : (s.nextCycle g).memory2DecodeFlush = s.memory2DecodeFlush := rfl
@[simp] theorem State.nextCycle_memory2ExecuteFlush (g : Stage) : (s.nextCycle g).memory2ExecuteFlush = s.memory2ExecuteFlush := rfl
@[simp] theorem State.nextCycle_memory2MemoryFlush (g : Stage) : (s.nextCycle g).memory2MemoryFlush = s.memory2MemoryFlush := rfl
@[simp] theorem State.nextCycle_memory2FetchTarget (g : Stage) : (s.nextCycle g).memory2FetchTarget = s.memory2FetchTarget := rfl
@[simp] theorem State.nextCycle_btb (g : Stage) : (s.nextCycle g).btb = s.btb := rfl
@[simp] theorem State.nextCycle_mem (g : Stage) : (s.nextCycle g).mem = s.mem := rfl
@[simp] theorem State.nextCycle_cycle (g : Stage) : (s.nextCycle g).cycle = s.cycle + 1 := rfl
@[simp] theorem State.nextCycle_executedInstrs (g : Stage) : (s.nextCycle g).executedInstrs = s.executedInstrs := rfl
@[simp] theorem State.nextCycle_lastWritebackCycle (g : Stage) : (s.nextCycle g).lastWritebackCycle = s.lastWritebackCycle := rfl
@[simp] theorem State.nextCycle_runStatus (g : Stage) : (s.nextCycle g).runStatus = s.runStatus := rfl
@[simp] theorem State.nextCycle_ref (g : Stage) : (s.nextCycle g).ref = s.ref := rfl
@[simp] theorem State.nextCycle_ifStatus (g : Stage) : (s.nextCycle g).ifStatus = s.ifStatus := rfl
@[simp] theorem State.nextCycle_idStatus (g : Stage) : (s.nextCycle g).idStatus = s.idStatus := rfl
@[simp] theorem State.nextCycle_exStatus (g : Stage) : (s.nextCycle g).exStatus = s.exStatus := rfl
@[simp] theorem State.nextCycle_memStatus (g : Stage) : (s.nextCycle g).memStatus = s.memStatus := rfl
@[simp] theorem State.nextCycle_wbStatus (g : Stage) : (s.nextCycle g).wbStatus = s.wbStatus := rfl
@[simp] theorem State.nextCycle_retireLog (g : Stage) : (s.nextCycle g).retireLog = s.retireLog := rfl
@[simp] theorem State.nextCycle_acting (g : Stage) : (s.nextCycle g).acting = g := rfl

/-! ### Start of a cycle -/

@[simp] theorem State.beginCycle_config : (s.beginCycle).config = s.config := rfl
@[simp] theorem State.beginCycle_x : (s.beginCycle).x = s.x := rfl
@[simp] theorem State.beginCycle_hilo : (s.beginCycle).hilo = s.hilo := rfl
@[simp] theorem State.beginCycle_sb : (s.beginCycle).sb = s.sb := rfl
@[simp] theorem State.beginCycle_pc : (s.beginCycle).pc = s.pc := rfl
@[simp] theorem State.beginCycle_idBuf : (s.beginCycle).idBuf = s.idBuf := rfl
@[simp] theorem State.beginCycle_fetch2Decode : (s.beginCycle).fetch2Decode = s.fetch2Decode := rfl
@[simp] theorem State.beginCycle_decode2FetchStall : (s.beginCycle).decode2FetchStall = s.decode2FetchStall := rfl
@[simp] theorem State.beginCycle_decode2Execute : (s.beginCycle).decode2Execute = s.decode2Execute := rfl
@[simp] theorem State.beginCycle_execute2DecodeStall : (s.beginCycle).execute2DecodeStall = s.execute2DecodeStall := rfl
@[simp] theorem State.beginCycle_execute2Memory : (s.beginCycle).execute2Memory = s.execute2Memory := rfl
@[simp] theorem State.beginCycle_memory2ExecuteStall : (s.beginCycle).memory2ExecuteStall = s.memory2ExecuteStall := rfl
@[simp] theorem State.beginCycle_memory2Writeback : (s.beginCycle).memory2Writeback = s.memory2Writeback := rfl
@[simp] theorem State.beginCycle_writeback2MemoryStall : (s.beginCycle).writeback2MemoryStall = s.writeback2MemoryStall := rfl
@[simp] theorem State.beginCycle_memory2FetchFlush : (s.beginCycle).memory2FetchFlush = s.memory2FetchFlush := rfl
@[simp] theorem State.beginCycle_memory2DecodeFlush : (s.beginCycle).memory2DecodeFlush = s.memory2DecodeFlush := rfl
@[simp] theorem State.beginCycle_memory2ExecuteFlush : (s.beginCycle).memory2ExecuteFlush = s.memory2ExecuteFlush := rfl
@[simp] theorem State.beginCycle_memory2MemoryFlush : (s.beginCycle).memory2MemoryFlush = s.memory2MemoryFlush := rfl
@[simp] theorem State.beginCycle_memory2FetchTarget : (s.beginCycle).memory2FetchTarget = s.memory2FetchTarget := rfl
@[simp] theorem State.beginCycle_btb : (s.beginCycle).btb = s.btb := rfl
@[simp] theorem State.beginCycle_mem : (s.beginCycle).mem = s.mem := rfl
@[simp] theorem State.beginCycle_cycle : (s.beginCycle).cycle = s.cycle := rfl
@[simp] theorem State.beginCycle_executedInstrs : (s.beginCycle).executedInstrs = s.executedInstrs := rfl
@[simp] theorem State.beginCycle_lastWritebackCycle : (s.beginCycle).lastWritebackCycle = s.lastWritebackCycle := rfl
@[simp] theorem State.beginCycle_runStatus : (s.beginCycle).runStatus = s.runStatus := rfl
@[simp] theorem State.beginCycle_ref : (s.beginCycle).ref = s.ref := rfl
@[simp] theorem State.beginCycle_ifStatus : (s.beginCycle).ifStatus = none := rfl
@[simp] theorem State.beginCycle_idStatus : (s.beginCycle).idStatus = none := rfl
@[simp] theorem State.beginCycle_exStatus : (s.beginCycle).exStatus = none := rfl
@[simp] theorem State.beginCycle_memStatus : (s.beginCycle).memStatus = none := rfl
@[simp] theorem State.beginCycle_wbStatus : (s.beginCycle).wbStatus = none := rfl
@[simp] theorem State.beginCycle_retireLog : (s.beginCycle).retireLog = s.retireLog := rfl
@[simp] theorem State.beginCycle_acting : (s.beginCycle).acting = .fetch := rfl

/-! ### Port writes: everything but the port and a fatal -/

@[simp] theorem State.putFetch2Decode_config (v : IfIdData) : (s.putFetch2Decode v).config = s.config := by unfold State.putFetch2Decode; split <;> rfl
@[simp] theorem State.putFetch2Decode_x (v : IfIdData) : (s.putFetch2Decode v).x = s.x := by unfold State.putFetch2Decode; split <;> rfl
@[simp] theorem State.putFetch2Decode_hilo (v : IfIdData) : (s.putFetch2Decode v).hilo = s.hilo := by unfold State.putFetch2Decode; split <;> rfl
@[simp] theorem State.putFetch2Decode_sb (v : IfIdData) : (s.putFetch2Decode v).sb = s.sb := by unfold State.putFetch2Decode; split <;> rfl
@[simp] theorem State.putFetch2Decode_pc (v : IfIdData) : (s.putFetch2Decode v).pc = s.pc := by unfold State.putFetch2Decode; split <;> rfl
@[simp] theorem State.putFetch2Decode_idBuf (v : IfIdData) : (s.putFetch2Decode v).idBuf = s.idBuf := by unfold State.putFetch2Decode; split <;> rfl
@[simp] theorem State.putFetch2Decode_decode2FetchStall (v : IfIdData) : (s.putFetch2Decode v).decode2FetchStall = s.decode2FetchStall := by unfold State.putFetch2Decode; split <;> rfl
@[simp] theorem State.putFetch2Decode_decode2Execute (v : IfIdData) : (s.putFetch2Decode v).decode2Execute = s.decode2Execute := by unfold State.putFetch2Decode; split <;> rfl
@[simp] theorem State.putFetch2Decode_execute2DecodeStall (v : IfIdData) : (s.putFetch2Decode v).execute2DecodeStall = s.execute2DecodeStall := by unfold State.putFetch2Decode; split <;> rfl
@[simp] theorem State.putFetch2Decode_execute2Memory (v : IfIdData) : (s.putFetch2Decode v).execute2Memory = s.execute2Memory := by unfold State.putFetch2Decode; split <;> rfl
@[simp] theorem State.putFetch2Decode_memory2ExecuteStall (v : IfIdData) : (s.putFetch2Decode v).memory2ExecuteStall = s.memory2ExecuteStall := by unfold State.putFetch2Decode; split <;> rfl
@[simp] theorem State.putFetch2Decode_memory2Writeback (v : IfIdData) : (s.putFetch2Decode v).memory2Writeback = s.memory2Writeback := by unfold State.putFetch2Decode; split <;> rfl
@[simp] theorem State.putFetch2Decode_writeback2MemoryStall (v : IfIdData) : (s.putFetch2Decode v).writeback2MemoryStall = s.writeback2MemoryStall := by unfold State.putFetch2Decode; split <;> rfl
@[simp] theorem State.putFetch2Decode_memory2FetchFlush (v : IfIdData) : (s.putFetch2Decode v).memory2FetchFlush = s.memory2FetchFlush := by unfold State.putFetch2Decode; split <;> rfl
@[simp] theorem State.putFetch2Decode_memory2DecodeFlush (v : IfIdData) : (s.putFetch2Decode v).memory2DecodeFlush = s.memory2DecodeFlush := by unfold State.putFetch2Decode; split <;> rfl
@[simp] theorem State.putFetch2Decode_memory2ExecuteFlush (v : IfIdData) : (s.putFetch2Decode v).memory2ExecuteFlush = s.memory2ExecuteFlush := by unfold State.putFetch2Decode; split <;> rfl
@[simp] theorem State.putFetch2Decode_memory2MemoryFlush (v : IfIdData) : (s.putFetch2Decode v).memory2MemoryFlush = s.memory2MemoryFlush := by unfold State.putFetch2Decode; split <;> rfl
@[simp] theorem State.putFetch2Decode_memory2FetchTarget (v : IfIdData) : (s.putFetch2Decode v).memory2FetchTarget = s.memory2FetchTarget := by unfold State.putFetch2Decode; split <;> rfl
@[simp] theorem State.putFetch2Decode_btb (v : IfIdData) : (s.putFetch2Decode v).btb = s.btb := by unfold State.putFetch2Decode; split <;> rfl
@[simp] theorem State.putFetch2Decode_mem (v : IfIdData) : (s.putFetch2Decode v).mem = s.mem := by unfold State.putFetch2Decode; split <;> rfl
@[simp] theorem State.putFetch2Decode_cycle (v : IfIdData) : (s.putFetch2Decode v).cycle = s.cycle := by unfold State.putFetch2Decode; split <;> rfl
@[simp] theorem State.putFetch2Decode_executedInstrs (v : IfIdData) : (s.putFetch2Decode v).executedInstrs = s.executedInstrs := by unfold State.putFetch2Decode; split <;> rfl
@[simp] theorem State.putFetch2Decode_lastWritebackCycle (v : IfIdData) : (s.putFetch2Decode v).lastWritebackCycle = s.lastWritebackCycle := by unfold State.putFetch2Decode; split <;> rfl
@[simp] theorem State.putFetch2Decode_ref (v : IfIdData) : (s.putFetch2Decode v).ref = s.ref := by unfold State.putFetch2Decode; split <;> rfl
@[simp] theorem State.putFetch2Decode_ifStatus (v : IfIdData) : (s.putFetch2Decode v).ifStatus = s.ifStatus := by unfold State.putFetch2Decode; split <;> rfl
@[simp] theorem State.putFetch2Decode_idStatus (v : IfIdData) : (s.putFetch2Decode v).idStatus = s.idStatus := by unfold State.putFetch2Decode; split <;> rfl
@[simp] theorem State.putFetch2Decode_exStatus (v : IfIdData) : (s.putFetch2Decode v).exStatus = s.exStatus := by unfold State.putFetch2Decode; split <;> rfl
@[simp] theorem State.putFetch2Decode_memStatus (v : IfIdData) : (s.putFetch2Decode v).memStatus = s.memStatus := by unfold State.putFetch2Decode; split <;> rfl
@[simp] theorem State.putFetch2Decode_wbStatus (v : IfIdData) : (s.putFetch2Decode v).wbStatus = s.wbStatus := by unfold State.putFetch2Decode; split <;> rfl
@[simp] theorem State.putFetch2Decode_retireLog (v : IfIdData) : (s.putFetch2Decode v).retireLog = s.retireLog := by unfold State.putFetch2Decode; split <;> rfl
@[simp] theorem State.putFetch2Decode_acting (v : IfIdData) : (s.putFetch2Decode v).acting = s.acting := by unfold State.putFetch2Decode; split <;> rfl
@[simp] theorem State.putDecode2FetchStall_config : (s.putDecode2FetchStall).config = s.config := by unfold State.putDecode2FetchStall; split <;> rfl
@[simp] theorem State.putDecode2FetchStall_x : (s.putDecode2FetchStall).x = s.x := by unfold State.putDecode2FetchStall; split <;> rfl
@[simp] theorem State.putDecode2FetchStall_hilo : (s.putDecode2FetchStall).hilo = s.hilo := by unfold State.putDecode2FetchStall; split <;> rfl
@[simp] theorem State.putDecode2FetchStall_sb : (s.putDecode2FetchStall).sb = s.sb := by unfold State.putDecode2FetchStall; split <;> rfl
@[simp] theorem State.putDecode2FetchStall_pc : (s.putDecode2FetchStall).pc = s.pc := by unfold State.putDecode2FetchStall; split <;> rfl
@[simp] theorem State.putDecode2FetchStall_idBuf : (s.putDecode2FetchStall).idBuf = s.idBuf := by unfold State.putDecode2FetchStall; split <;> rfl
@[simp] theorem State.putDecode2FetchStall_fetch2Decode : (s.putDecode2FetchStall).fetch2Decode = s.fetch2Decode := by unfold State.putDecode2FetchStall; split <;> rfl
@[simp] theorem State.putDecode2FetchStall_decode2Execute : (s.putDecode2FetchStall).decode2Execute = s.decode2Execute := by unfold State.putDecode2FetchStall; split <;> rfl
@[simp] theorem State.putDecode2FetchStall_execute2DecodeStall : (s.putDecode2FetchStall).execute2DecodeStall = s.execute2DecodeStall := by unfold State.putDecode2FetchStall; split <;> rfl
@[simp] theorem State.putDecode2FetchStall_execute2Memory : (s.putDecode2FetchStall).execute2Memory = s.execute2Memory := by unfold State.putDecode2FetchStall; split <;> rfl
@[simp] theorem State.putDecode2FetchStall_memory2ExecuteStall : (s.putDecode2FetchStall).memory2ExecuteStall = s.memory2ExecuteStall := by unfold State.putDecode2FetchStall; split <;> rfl
@[simp] theorem State.putDecode2FetchStall_memory2Writeback : (s.putDecode2FetchStall).memory2Writeback = s.memory2Writeback := by unfold State.putDecode2FetchStall; split <;> rfl
@[simp] theorem State.putDecode2FetchStall_writeback2MemoryStall : (s.putDecode2FetchStall).writeback2MemoryStall = s.writeback2MemoryStall := by unfold State.putDecode2FetchStall; split <;> rfl
@[simp] theorem State.putDecode2FetchStall_memory2FetchFlush : (s.putDecode2FetchStall).memory2FetchFlush = s.memory2FetchFlush := by unfold State.putDecode2FetchStall; split <;> rfl
@[simp] theorem State.putDecode2FetchStall_memory2DecodeFlush : (s.putDecode2FetchStall).memory2DecodeFlush = s.memory2DecodeFlush := by unfold State.putDecode2FetchStall; split <;> rfl
@[simp] theorem State.putDecode2FetchStall_memory2ExecuteFlush : (s.putDecode2FetchStall).memory2ExecuteFlush = s.memory2ExecuteFlush := by unfold State.putDecode2FetchStall; split <;> rfl
@[simp] theorem State.putDecode2FetchStall_memory2MemoryFlush : (s.putDecode2FetchStall).memory2MemoryFlush = s.memory2MemoryFlush := by unfold State.putDecode2FetchStall; split <;> rfl
@[simp] theorem State.putDecode2FetchStall_memory2FetchTarget : (s.putDecode2FetchStall).memory2FetchTarget = s.memory2FetchTarget := by unfold State.putDecode2FetchStall; split <;> rfl
@[simp] theorem State.putDecode2FetchStall_btb : (s.putDecode2FetchStall).btb = s.btb := by unfold State.putDecode2FetchStall; split <;> rfl
@[simp] theorem State.putDecode2FetchStall_mem : (s.putDecode2FetchStall).mem = s.mem := by unfold State.putDecode2FetchStall; split <;> rfl
@[simp] theorem State.putDecode2FetchStall_cycle : (s.putDecode2FetchStall).cycle = s.cycle := by unfold State.putDecode2FetchStall; split <;> rfl
@[simp] theorem State.putDecode2FetchStall_executedInstrs : (s.putDecode2FetchStall).executedInstrs = s.executedInstrs := by unfold State.putDecode2FetchStall; split <;> rfl
@[simp] theorem State.putDecode2FetchStall_lastWritebackCycle : (s.putDecode2FetchStall).lastWritebackCycle = s.lastWritebackCycle := by unfold State.putDecode2FetchStall; split <;> rfl
@[simp] theorem State.putDecode2FetchStall_ref : (s.putDecode2FetchStall).ref = s.ref := by unfold State.putDecode2FetchStall; split <;> rfl
@[simp] theorem State.putDecode2FetchStall_ifStatus : (s.putDecode2FetchStall).ifStatus = s.ifStatus := by unfold State.putDecode2FetchStall; split <;> rfl
@[simp] theorem State.putDecode2FetchStall_idStatus : (s.putDecode2FetchStall).idStatus = s.idStatus := by unfold State.putDecode2FetchStall; split <;> rfl
@[simp] theorem State.putDecode2FetchStall_exStatus : (s.putDecode2FetchStall).exStatus = s.exStatus := by unfold State.putDecode2FetchStall; split <;> rfl
@[simp] theorem State.putDecode2FetchStall_memStatus : (s.putDecode2FetchStall).memStatus = s.memStatus := by unfold State.putDecode2FetchStall; split <;> rfl
@[simp] theorem State.putDecode2FetchStall_wbStatus : (s.putDecode2FetchStall).wbStatus = s.wbStatus := by unfold State.putDecode2FetchStall; split <;> rfl
@[simp] theorem State.putDecode2FetchStall_retireLog : (s.putDecode2FetchStall).retireLog = s.retireLog := by unfold State.putDecode2FetchStall; split <;> rfl
@[simp] theorem State.putDecode2FetchStall_acting : (s.putDecode2FetchStall).acting = s.acting := by unfold State.putDecode2FetchStall; split <;> rfl
@[simp] theorem State.putDecode2Execute_config (v : InstrRec) : (s.putDecode2Execute v).config = s.config := by unfold State.putDecode2Execute; split <;> rfl
@[simp] theorem State.putDecode2Execute_x (v : InstrRec) : (s.putDecode2Execute v).x = s.x := by unfold State.putDecode2Execute; split <;> rfl
@[simp] theorem State.putDecode2Execute_hilo (v : InstrRec) : (s.putDecode2Execute v).hilo = s.hilo := by unfold State.putDecode2Execute; split <;> rfl
@[simp] theorem State.putDecode2Execute_sb (v : InstrRec) : (s.putDecode2Execute v).sb = s.sb := by unfold State.putDecode2Execute; split <;> rfl
@[simp] theorem State.putDecode2Execute_pc (v : InstrRec) : (s.putDecode2Execute v).pc = s.pc := by unfold State.putDecode2Execute; split <;> rfl
@[simp] theorem State.putDecode2Execute_idBuf (v : InstrRec) : (s.putDecode2Execute v).idBuf = s.idBuf := by unfold State.putDecode2Execute; split <;> rfl
@[simp] theorem State.putDecode2Execute_fetch2Decode (v : InstrRec) : (s.putDecode2Execute v).fetch2Decode = s.fetch2Decode := by unfold State.putDecode2Execute; split <;> rfl
@[simp] theorem State.putDecode2Execute_decode2FetchStall (v : InstrRec) : (s.putDecode2Execute v).decode2FetchStall = s.decode2FetchStall := by unfold State.putDecode2Execute; split <;> rfl
@[simp] theorem State.putDecode2Execute_execute2DecodeStall (v : InstrRec) : (s.putDecode2Execute v).execute2DecodeStall = s.execute2DecodeStall := by unfold State.putDecode2Execute; split <;> rfl
@[simp] theorem State.putDecode2Execute_execute2Memory (v : InstrRec) : (s.putDecode2Execute v).execute2Memory = s.execute2Memory := by unfold State.putDecode2Execute; split <;> rfl
@[simp] theorem State.putDecode2Execute_memory2ExecuteStall (v : InstrRec) : (s.putDecode2Execute v).memory2ExecuteStall = s.memory2ExecuteStall := by unfold State.putDecode2Execute; split <;> rfl
@[simp] theorem State.putDecode2Execute_memory2Writeback (v : InstrRec) : (s.putDecode2Execute v).memory2Writeback = s.memory2Writeback := by unfold State.putDecode2Execute; split <;> rfl
@[simp] theorem State.putDecode2Execute_writeback2MemoryStall (v : InstrRec) : (s.putDecode2Execute v).writeback2MemoryStall = s.writeback2MemoryStall := by unfold State.putDecode2Execute; split <;> rfl
@[simp] theorem State.putDecode2Execute_memory2FetchFlush (v : InstrRec) : (s.putDecode2Execute v).memory2FetchFlush = s.memory2FetchFlush := by unfold State.putDecode2Execute; split <;> rfl
@[simp] theorem State.putDecode2Execute_memory2DecodeFlush (v : InstrRec) : (s.putDecode2Execute v).memory2DecodeFlush = s.memory2DecodeFlush := by unfold State.putDecode2Execute; split <;> rfl
@[simp] theorem State.putDecode2Execute_memory2ExecuteFlush (v : InstrRec) : (s.putDecode2Execute v).memory2ExecuteFlush = s.memory2ExecuteFlush := by unfold State.putDecode2Execute; split <;> rfl
@[simp] theorem State.putDecode2Execute_memory2MemoryFlush (v : InstrRec) : (s.putDecode2Execute v).memory2MemoryFlush = s.memory2MemoryFlush := by unfold State.putDecode2Execute; split <;> rfl
@[simp] theorem State.putDecode2Execute_memory2FetchTarget (v : InstrRec) : (s.putDecode2Execute v).memory2FetchTarget = s.memory2FetchTarget := by unfold State.putDecode2Execute; split <;> rfl
@[simp] theorem State.putDecode2Execute_btb (v : InstrRec) : (s.putDecode2Execute v).btb = s.btb := by unfold State.putDecode2Execute; split <;> rfl
@[simp] theorem State.putDecode2Execute_mem (v : InstrRec) : (s.putDecode2Execute v).mem = s.mem := by unfold State.putDecode2Execute; split <;> rfl
@[simp] theorem State.putDecode2Execute_cycle (v : InstrRec) : (s.putDecode2Execute v).cycle = s.cycle := by unfold State.putDecode2Execute; split <;> rfl
@[simp] theorem State.putDecode2Execute_executedInstrs (v : InstrRec) : (s.putDecode2Execute v).executedInstrs = s.executedInstrs := by unfold State.putDecode2Execute; split <;> rfl
@[simp] theorem State.putDecode2Execute_lastWritebackCycle (v : InstrRec) : (s.putDecode2Execute v).lastWritebackCycle = s.lastWritebackCycle := by unfold State.putDecode2Execute; split <;> rfl
@[simp] theorem State.putDecode2Execute_ref (v : InstrRec) : (s.putDecode2Execute v).ref = s.ref := by unfold State.putDecode2Execute; split <;> rfl
@[simp] theorem State.putDecode2Execute_ifStatus (v : InstrRec) : (s.putDecode2Execute v).ifStatus = s.ifStatus := by unfold State.putDecode2Execute; split <;> rfl
@[simp] theorem State.putDecode2Execute_idStatus (v : InstrRec) : (s.putDecode2Execute v).idStatus = s.idStatus := by unfold State.putDecode2Execute; split <;> rfl
@[simp] theorem State.putDecode2Execute_exStatus (v : InstrRec) : (s.putDecode2Execute v).exStatus = s.exStatus := by unfold State.putDecode2Execute; split <;> rfl
@[simp] theorem State.putDecode2Execute_memStatus (v : InstrRec) : (s.putDecode2Execute v).memStatus = s.memStatus := by unfold State.putDecode2Execute; split <;> rfl
@[simp] theorem State.putDecode2Execute_wbStatus (v : InstrRec) : (s.putDecode2Execute v).wbStatus = s.wbStatus := by unfold State.putDecode2Execute; split <;> rfl
@[simp] theorem State.putDecode2Execute_retireLog (v : InstrRec) : (s.putDecode2Execute v).retireLog = s.retireLog := by unfold State.putDecode2Execute; split <;> rfl
@[simp] theorem State.putDecode2Execute_acting (v : InstrRec) : (s.putDecode2Execute v).acting = s.acting := by unfold State.putDecode2Execute; split <;> rfl
@[simp] theorem State.putExecute2Memory_config (v : InstrRec) : (s.putExecute2Memory v).config = s.config := by unfold State.putExecute2Memory; split <;> rfl
@[simp] theorem State.putExecute2Memory_x (v : InstrRec) : (s.putExecute2Memory v).x = s.x := by unfold State.putExecute2Memory; split <;> rfl
@[simp] theorem State.putExecute2Memory_hilo (v : InstrRec) : (s.putExecute2Memory v).hilo = s.hilo := by unfold State.putExecute2Memory; split <;> rfl
@[simp] theorem State.putExecute2Memory_sb (v : InstrRec) : (s.putExecute2Memory v).sb = s.sb := by unfold State.putExecute2Memory; split <;> rfl
@[simp] theorem State.putExecute2Memory_pc (v : InstrRec) : (s.putExecute2Memory v).pc = s.pc := by unfold State.putExecute2Memory; split <;> rfl
@[simp] theorem State.putExecute2Memory_idBuf (v : InstrRec) : (s.putExecute2Memory v).idBuf = s.idBuf := by unfold State.putExecute2Memory; split <;> rfl
@[simp] theorem State.putExecute2Memory_fetch2Decode (v : InstrRec) : (s.putExecute2Memory v).fetch2Decode = s.fetch2Decode := by unfold State.putExecute2Memory; split <;> rfl
@[simp] theorem State.putExecute2Memory_decode2FetchStall (v : InstrRec) : (s.putExecute2Memory v).decode2FetchStall = s.decode2FetchStall := by unfold State.putExecute2Memory; split <;> rfl
@[simp] theorem State.putExecute2Memory_decode2Execute (v : InstrRec) : (s.putExecute2Memory v).decode2Execute = s.decode2Execute := by unfold State.putExecute2Memory; split <;> rfl
@[simp] theorem State.putExecute2Memory_execute2DecodeStall (v : InstrRec) : (s.putExecute2Memory v).execute2DecodeStall = s.execute2DecodeStall := by unfold State.putExecute2Memory; split <;> rfl
@[simp] theorem State.putExecute2Memory_memory2ExecuteStall (v : InstrRec) : (s.putExecute2Memory v).memory2ExecuteStall = s.memory2ExecuteStall := by unfold State.putExecute2Memory; split <;> rfl
@[simp] theorem State.putExecute2Memory_memory2Writeback (v : InstrRec) : (s.putExecute2Memory v).memory2Writeback = s.memory2Writeback := by unfold State.putExecute2Memory; split <;> rfl
@[simp] theorem State.putExecute2Memory_writeback2MemoryStall (v : InstrRec) : (s.putExecute2Memory v).writeback2MemoryStall = s.writeback2MemoryStall := by unfold State.putExecute2Memory; split <;> rfl
@[simp] theorem State.putExecute2Memory_memory2FetchFlush (v : InstrRec) : (s.putExecute2Memory v).memory2FetchFlush = s.memory2FetchFlush := by unfold State.putExecute2Memory; split <;> rfl
@[simp] theorem State.putExecute2Memory_memory2DecodeFlush (v : InstrRec) : (s.putExecute2Memory v).memory2DecodeFlush = s.memory2DecodeFlush := by unfold State.putExecute2Memory; split <;> rfl
@[simp] theorem State.putExecute2Memory_memory2ExecuteFlush (v : InstrRec) : (s.putExecute2Memory v).memory2ExecuteFlush = s.memory2ExecuteFlush := by unfold State.putExecute2Memory; split <;> rfl
@[simp] theorem State.putExecute2Memory_memory2MemoryFlush (v : InstrRec) : (s.putExecute2Memory v).memory2MemoryFlush = s.memory2MemoryFlush := by unfold State.putExecute2Memory; split <;> rfl
@[simp] theorem State.putExecute2Memory_memory2FetchTarget (v : InstrRec) : (s.putExecute2Memory v).memory2FetchTarget = s.memory2FetchTarget := by unfold State.putExecute2Memory; split <;> rfl
@[simp] theorem State.putExecute2Memory_btb (v : InstrRec) : (s.putExecute2Memory v).btb = s.btb := by unfold State.putExecute2Memory; split <;> rfl
@[simp] theorem State.putExecute2Memory_mem (v : InstrRec) : (s.putExecute2Memory v).mem = s.mem := by unfold State.putExecute2Memory; split <;> rfl
@[simp] theorem State.putExecute2Memory_cycle (v : InstrRec) : (s.putExecute2Memory v).cycle = s.cycle := by unfold State.putExecute2Memory; split <;> rfl
@[simp] theorem State.putExecute2Memory_executedInstrs (v : InstrRec) : (s.putExecute2Memory v).executedInstrs = s.executedInstrs := by unfold State.putExecute2Memory; split <;> rfl
@[simp] theorem State.putExecute2Memory_lastWritebackCycle (v : InstrRec) : (s.putExecute2Memory v).lastWritebackCycle = s.lastWritebackCycle := by unfold State.putExecute2Memory; split <;> rfl
@[simp] theorem State.putExecute2Memory_ref (v : InstrRec) : (s.putExecute2Memory v).ref = s.ref := by unfold State.putExecute2Memory; split <;> rfl
@[simp] theorem State.putExecute2Memory_ifStatus (v : InstrRec) : (s.putExecute2Memory v).ifStatus = s.ifStatus := by unfold State.putExecute2Memory; split <;> rfl
@[simp] theorem State.putExecute2Memory_idStatus (v : InstrRec) : (s.putExecute2Memory v).idStatus = s.idStatus := by unfold State.putExecute2Memory; split <;> rfl
@[simp] theorem State.putExecute2Memory_exStatus (v : InstrRec) : (s.putExecute2Memory v).exStatus = s.exStatus := by unfold State.putExecute2Memory; split <;> rfl
@[simp] theorem State.putExecute2Memory_memStatus (v : InstrRec) : (s.putExecute2Memory v).memStatus = s.memStatus := by unfold State.putExecute2Memory; split <;> rfl
@[simp] theorem State.putExecute2Memory_wbStatus (v : InstrRec) : (s.putExecute2Memory v).wbStatus = s.wbStatus := by unfold State.putExecute2Memory; split <;> rfl
@[simp] theorem State.putExecute2Memory_retireLog (v : InstrRec) : (s.putExecute2Memory v).retireLog = s.retireLog := by unfold State.putExecute2Memory; split <;> rfl
@[simp] theorem State.putExecute2Memory_acting (v : InstrRec) : (s.putExecute2Memory v).acting = s.acting := by unfold State.putExecute2Memory; split <;> rfl
@[simp] theorem State.putMemory2Writeback_config (v : InstrRec) : (s.putMemory2Writeback v).config = s.config := by unfold State.putMemory2Writeback; split <;> rfl
@[simp] theorem State.putMemory2Writeback_x (v : InstrRec) : (s.putMemory2Writeback v).x = s.x := by unfold State.putMemory2Writeback; split <;> rfl
@[simp] theorem State.putMemory2Writeback_hilo (v : InstrRec) : (s.putMemory2Writeback v).hilo = s.hilo := by unfold State.putMemory2Writeback; split <;> rfl
@[simp] theorem State.putMemory2Writeback_sb (v : InstrRec) : (s.putMemory2Writeback v).sb = s.sb := by unfold State.putMemory2Writeback; split <;> rfl
@[simp] theorem State.putMemory2Writeback_pc (v : InstrRec) : (s.putMemory2Writeback v).pc = s.pc := by unfold State.putMemory2Writeback; split <;> rfl
@[simp] theorem State.putMemory2Writeback_idBuf (v : InstrRec) : (s.putMemory2Writeback v).idBuf = s.idBuf := by unfold State.putMemory2Writeback; split <;> rfl
@[simp] theorem State.putMemory2Writeback_fetch2Decode (v : InstrRec) : (s.putMemory2Writeback v).fetch2Decode = s.fetch2Decode := by unfold State.putMemory2Writeback; split <;> rfl
@[simp] theorem State.putMemory2Writeback_decode2FetchStall (v : InstrRec) : (s.putMemory2Writeback v).decode2FetchStall = s.decode2FetchStall := by unfold State.putMemory2Writeback; split <;> rfl
@[simp] theorem State.putMemory2Writeback_decode2Execute (v : InstrRec) : (s.putMemory2Writeback v).decode2Execute = s.decode2Execute := by unfold State.putMemory2Writeback; split <;> rfl
@[simp] theorem State.putMemory2Writeback_execute2DecodeStall (v : InstrRec) : (s.putMemory2Writeback v).execute2DecodeStall = s.execute2DecodeStall := by unfold State.putMemory2Writeback; split <;> rfl
@[simp] theorem State.putMemory2Writeback_execute2Memory (v : InstrRec) : (s.putMemory2Writeback v).execute2Memory = s.execute2Memory := by unfold State.putMemory2Writeback; split <;> rfl
@[simp] theorem State.putMemory2Writeback_memory2ExecuteStall (v : InstrRec) : (s.putMemory2Writeback v).memory2ExecuteStall = s.memory2ExecuteStall := by unfold State.putMemory2Writeback; split <;> rfl
@[simp] theorem State.putMemory2Writeback_writeback2MemoryStall (v : InstrRec) : (s.putMemory2Writeback v).writeback2MemoryStall = s.writeback2MemoryStall := by unfold State.putMemory2Writeback; split <;> rfl
@[simp] theorem State.putMemory2Writeback_memory2FetchFlush (v : InstrRec) : (s.putMemory2Writeback v).memory2FetchFlush = s.memory2FetchFlush := by unfold State.putMemory2Writeback; split <;> rfl
@[simp] theorem State.putMemory2Writeback_memory2DecodeFlush (v : InstrRec) : (s.putMemory2Writeback v).memory2DecodeFlush = s.memory2DecodeFlush := by unfold State.putMemory2Writeback; split <;> rfl
@[simp] theorem State.putMemory2Writeback_memory2ExecuteFlush (v : InstrRec) : (s.putMemory2Writeback v).memory2ExecuteFlush = s.memory2ExecuteFlush := by unfold State.putMemory2Writeback; split <;> rfl
@[simp] theorem State.putMemory2Writeback_memory2MemoryFlush (v : InstrRec) : (s.putMemory2Writeback v).memory2MemoryFlush = s.memory2MemoryFlush := by unfold State.putMemory2Writeback; split <;> rfl
@[simp] theorem State.putMemory2Writeback_memory2FetchTarget (v : InstrRec) : (s.putMemory2Writeback v).memory2FetchTarget = s.memory2FetchTarget := by unfold State.putMemory2Writeback; split <;> rfl
@[simp] theorem State.putMemory2Writeback_btb (v : InstrRec) : (s.putMemory2Writeback v).btb = s.btb := by unfold State.putMemory2Writeback; split <;> rfl
@[simp] theorem State.putMemory2Writeback_mem (v : InstrRec) : (s.putMemory2Writeback v).mem = s.mem := by unfold State.putMemory2Writeback; split <;> rfl
@[simp] theorem State.putMemory2Writeback_cycle (v : InstrRec) : (s.putMemory2Writeback v).cycle = s.cycle := by unfold State.putMemory2Writeback; split <;> rfl
@[simp] theorem State.putMemory2Writeback_executedInstrs (v : InstrRec) : (s.putMemory2Writeback v).executedInstrs = s.executedInstrs := by unfold State.putMemory2Writeback; split <;> rfl
@[simp] theorem State.putMemory2Writeback_lastWritebackCycle (v : InstrRec) : (s.putMemory2Writeback v).lastWritebackCycle = s.lastWritebackCycle := by unfold State.putMemory2Writeback; split <;> rfl
@[simp] theorem State.putMemory2Writeback_ref (v : InstrRec) : (s.putMemory2Writeback v).ref = s.ref := by unfold State.putMemory2Writeback; split <;> rfl
@[simp] theorem State.putMemory2Writeback_ifStatus (v : InstrRec) : (s.putMemory2Writeback v).ifStatus = s.ifStatus := by unfold State.putMemory2Writeback; split <;> rfl
@[simp] theorem State.putMemory2Writeback_idStatus (v : InstrRec) : (s.putMemory2Writeback v).idStatus = s.idStatus := by unfold State.putMemory2Writeback; split <;> rfl
@[simp] theorem State.putMemory2Writeback_exStatus (v : InstrRec) : (s.putMemory2Writeback v).exStatus = s.exStatus := by unfold State.putMemory2Writeback; split <;> rfl
@[simp] theorem State.putMemory2Writeback_memStatus (v : InstrRec) : (s.putMemory2Writeback v).memStatus = s.memStatus := by unfold State.putMemory2Writeback; split <;> rfl
@[simp] theorem State.putMemory2Writeback_wbStatus (v : InstrRec) : (s.putMemory2Writeback v).wbStatus = s.wbStatus := by unfold State.putMemory2Writeback; split <;> rfl
@[simp] theorem State.putMemory2Writeback_retireLog (v : InstrRec) : (s.putMemory2Writeback v).retireLog = s.retireLog := by unfold State.putMemory2Writeback; split <;> rfl
@[simp] theorem State.putMemory2Writeback_acting (v : InstrRec) : (s.putMemory2Writeback v).acting = s.acting := by unfold State.putMemory2Writeback; split <;> rfl
@[simp] theorem State.putFetchFlush_config : (s.putFetchFlush).config = s.config := by unfold State.putFetchFlush; split <;> rfl
@[simp] theorem State.putFetchFlush_x : (s.putFetchFlush).x = s.x := by unfold State.putFetchFlush; split <;> rfl
@[simp] theorem State.putFetchFlush_hilo : (s.putFetchFlush).hilo = s.hilo := by unfold State.putFetchFlush; split <;> rfl
@[simp] theorem State.putFetchFlush_sb : (s.putFetchFlush).sb = s.sb := by unfold State.putFetchFlush; split <;> rfl
@[simp] theorem State.putFetchFlush_pc : (s.putFetchFlush).pc = s.pc := by unfold State.putFetchFlush; split <;> rfl
@[simp] theorem State.putFetchFlush_idBuf : (s.putFetchFlush).idBuf = s.idBuf := by unfold State.putFetchFlush; split <;> rfl
@[simp] theorem State.putFetchFlush_fetch2Decode : (s.putFetchFlush).fetch2Decode = s.fetch2Decode := by unfold State.putFetchFlush; split <;> rfl
@[simp] theorem State.putFetchFlush_decode2FetchStall : (s.putFetchFlush).decode2FetchStall = s.decode2FetchStall := by unfold State.putFetchFlush; split <;> rfl
@[simp] theorem State.putFetchFlush_decode2Execute : (s.putFetchFlush).decode2Execute = s.decode2Execute := by unfold State.putFetchFlush; split <;> rfl
@[simp] theorem State.putFetchFlush_execute2DecodeStall : (s.putFetchFlush).execute2DecodeStall = s.execute2DecodeStall := by unfold State.putFetchFlush; split <;> rfl
@[simp] theorem State.putFetchFlush_execute2Memory : (s.putFetchFlush).execute2Memory = s.execute2Memory := by unfold State.putFetchFlush; split <;> rfl
@[simp] theorem State.putFetchFlush_memory2ExecuteStall : (s.putFetchFlush).memory2ExecuteStall = s.memory2ExecuteStall := by unfold State.putFetchFlush; split <;> rfl
@[simp] theorem State.putFetchFlush_memory2Writeback : (s.putFetchFlush).memory2Writeback = s.memory2Writeback := by unfold State.putFetchFlush; split <;> rfl
@[simp] theorem State.putFetchFlush_writeback2MemoryStall : (s.putFetchFlush).writeback2MemoryStall = s.writeback2MemoryStall := by unfold State.putFetchFlush; split <;> rfl
@[simp] theorem State.putFetchFlush_memory2DecodeFlush : (s.putFetchFlush).memory2DecodeFlush = s.memory2DecodeFlush := by unfold State.putFetchFlush; split <;> rfl
@[simp] theorem State.putFetchFlush_memory2ExecuteFlush : (s.putFetchFlush).memory2ExecuteFlush = s.memory2ExecuteFlush := by unfold State.putFetchFlush; split <;> rfl
@[simp] theorem State.putFetchFlush_memory2MemoryFlush : (s.putFetchFlush).memory2MemoryFlush = s.memory2MemoryFlush := by unfold State.putFetchFlush; split <;> rfl
@[simp] theorem State.putFetchFlush_memory2FetchTarget : (s.putFetchFlush).memory2FetchTarget = s.memory2FetchTarget := by unfold State.putFetchFlush; split <;> rfl
@[simp] theorem State.putFetchFlush_btb : (s.putFetchFlush).btb = s.btb := by unfold State.putFetchFlush; split <;> rfl
@[simp] theorem State.putFetchFlush_mem : (s.putFetchFlush).mem = s.mem := by unfold State.putFetchFlush; split <;> rfl
@[simp] theorem State.putFetchFlush_cycle : (s.putFetchFlush).cycle = s.cycle := by unfold State.putFetchFlush; split <;> rfl
@[simp] theorem State.putFetchFlush_executedInstrs : (s.putFetchFlush).executedInstrs = s.executedInstrs := by unfold State.putFetchFlush; split <;> rfl
@[simp] theorem State.putFetchFlush_lastWritebackCycle : (s.putFetchFlush).lastWritebackCycle = s.lastWritebackCycle := by unfold State.putFetchFlush; split <;> rfl
@[simp] theorem State.putFetchFlush_ref : (s.putFetchFlush).ref = s.ref := by unfold State.putFetchFlush; split <;> rfl
@[simp] theorem State.putFetchFlush_ifStatus : (s.putFetchFlush).ifStatus = s.ifStatus := by unfold State.putFetchFlush; split <;> rfl
@[simp] theorem State.putFetchFlush_idStatus : (s.putFetchFlush).idStatus = s.idStatus := by unfold State.putFetchFlush; split <;> rfl
@[simp] theorem State.putFetchFlush_exStatus : (s.putFetchFlush).exStatus = s.exStatus := by unfold State.putFetchFlush; split <;> rfl
@[simp] theorem State.putFetchFlush_memStatus : (s.putFetchFlush).memStatus = s.memStatus := by unfold State.putFetchFlush; split <;> rfl
@[simp] theorem State.putFetchFlush_wbStatus : (s.putFetchFlush).wbStatus = s.wbStatus := by unfold State.putFetchFlush; split <;> rfl
@[simp] theorem State.putFetchFlush_retireLog : (s.putFetchFlush).retireLog = s.retireLog := by unfold State.putFetchFlush; split <;> rfl
@[simp] theorem State.putFetchFlush_acting : (s.putFetchFlush).acting = s.acting := by unfold State.putFetchFlush; split <;> rfl
@[simp] theorem State.putDecodeFlush_config : (s.putDecodeFlush).config = s.config := by unfold State.putDecodeFlush; split <;> rfl
@[simp] theorem State.putDecodeFlush_x : (s.putDecodeFlush).x = s.x := by unfold State.putDecodeFlush; split <;> rfl
@[simp] theorem State.putDecodeFlush_hilo : (s.putDecodeFlush).hilo = s.hilo := by unfold State.putDecodeFlush; split <;> rfl
@[simp] theorem State.putDecodeFlush_sb : (s.putDecodeFlush).sb = s.sb := by unfold State.putDecodeFlush; split <;> rfl
@[simp] theorem State.putDecodeFlush_pc : (s.putDecodeFlush).pc = s.pc := by unfold State.putDecodeFlush; split <;> rfl
@[simp] theorem State.putDecodeFlush_idBuf : (s.putDecodeFlush).idBuf = s.idBuf := by unfold State.putDecodeFlush; split <;> rfl
@[simp] theorem State.putDecodeFlush_fetch2Decode : (s.putDecodeFlush).fetch2Decode = s.fetch2Decode := by unfold State.putDecodeFlush; split <;> rfl
@[simp] theorem State.putDecodeFlush_decode2FetchStall : (s.putDecodeFlush).decode2FetchStall = s.decode2FetchStall := by unfold State.putDecodeFlush; split <;> rfl
@[simp] theorem State.putDecodeFlush_decode2Execute : (s.putDecodeFlush).decode2Execute = s.decode2Execute := by unfold State.putDecodeFlush; split <;> rfl
@[simp] theorem State.putDecodeFlush_execute2DecodeStall : (s.putDecodeFlush).execute2DecodeStall = s.execute2DecodeStall := by unfold State.putDecodeFlush; split <;> rfl
@[simp] theorem State.putDecodeFlush_execute2Memory : (s.putDecodeFlush).execute2Memory = s.execute2Memory := by unfold State.putDecodeFlush; split <;> rfl
@[simp] theorem State.putDecodeFlush_memory2ExecuteStall : (s.putDecodeFlush).memory2ExecuteStall = s.memory2ExecuteStall := by unfold State.putDecodeFlush; split <;> rfl
@[simp] theorem State.putDecodeFlush_memory2Writeback : (s.putDecodeFlush).memory2Writeback = s.memory2Writeback := by unfold State.putDecodeFlush; split <;> rfl
@[simp] theorem State.putDecodeFlush_writeback2MemoryStall : (s.putDecodeFlush).writeback2MemoryStall = s.writeback2MemoryStall := by unfold State.putDecodeFlush; split <;> rfl
@[simp] theorem State.putDecodeFlush_memory2FetchFlush : (s.putDecodeFlush).memory2FetchFlush = s.memory2FetchFlush := by unfold State.putDecodeFlush; split <;> rfl
@[simp] theorem State.putDecodeFlush_memory2ExecuteFlush : (s.putDecodeFlush).memory2ExecuteFlush = s.memory2ExecuteFlush := by unfold State.putDecodeFlush; split <;> rfl
@[simp] theorem State.putDecodeFlush_memory2MemoryFlush : (s.putDecodeFlush).memory2MemoryFlush = s.memory2MemoryFlush := by unfold State.putDecodeFlush; split <;> rfl
@[simp] theorem State.putDecodeFlush_memory2FetchTarget : (s.putDecodeFlush).memory2FetchTarget = s.memory2FetchTarget := by unfold State.putDecodeFlush; split <;> rfl
@[simp] theorem State.putDecodeFlush_btb : (s.putDecodeFlush).btb = s.btb := by unfold State.putDecodeFlush; split <;> rfl
@[simp] theorem State.putDecodeFlush_mem : (s.putDecodeFlush).mem = s.mem := by unfold State.putDecodeFlush; split <;> rfl
@[simp] theorem State.putDecodeFlush_cycle : (s.putDecodeFlush).cycle = s.cycle := by unfold State.putDecodeFlush; split <;> rfl
@[simp] theorem State.putDecodeFlush_executedInstrs : (s.putDecodeFlush).executedInstrs = s.executedInstrs := by unfold State.putDecodeFlush; split <;> rfl
@[simp] theorem State.putDecodeFlush_lastWritebackCycle : (s.putDecodeFlush).lastWritebackCycle = s.lastWritebackCycle := by unfold State.putDecodeFlush; split <;> rfl
@[simp] theorem State.putDecodeFlush_ref : (s.putDecodeFlush).ref = s.ref := by unfold State.putDecodeFlush; split <;> rfl
@[simp] theorem State.putDecodeFlush_ifStatus : (s.putDecodeFlush).ifStatus = s.ifStatus := by unfold State.putDecodeFlush; split <;> rfl
@[simp] theorem State.putDecodeFlush_idStatus : (s.putDecodeFlush).idStatus = s.idStatus := by unfold State.putDecodeFlush; split <;> rfl
@[simp] theorem State.putDecodeFlush_exStatus : (s.putDecodeFlush).exStatus = s.exStatus := by unfold State.putDecodeFlush; split <;> rfl
@[simp] theorem State.putDecodeFlush_memStatus : (s.putDecodeFlush).memStatus = s.memStatus := by unfold State.putDecodeFlush; split <;> rfl
@[simp] theorem State.putDecodeFlush_wbStatus : (s.putDecodeFlush).wbStatus = s.wbStatus := by unfold State.putDecodeFlush; split <;> rfl
@[simp] theorem State.putDecodeFlush_retireLog : (s.putDecodeFlush).retireLog = s.retireLog := by unfold State.putDecodeFlush; split <;> rfl
@[simp] theorem State.putDecodeFlush_acting : (s.putDecodeFlush).acting = s.acting := by unfold State.putDecodeFlush; split <;> rfl
@[simp] theorem State.putExecuteFlush_config : (s.putExecuteFlush).config = s.config := by unfold State.putExecuteFlush; split <;> rfl
@[simp] theorem State.putExecuteFlush_x : (s.putExecuteFlush).x = s.x := by unfold State.putExecuteFlush; split <;> rfl
@[simp] theorem State.putExecuteFlush_hilo : (s.putExecuteFlush).hilo = s.hilo := by unfold State.putExecuteFlush; split <;> rfl
@[simp] theorem State.putExecuteFlush_sb : (s.putExecuteFlush).sb = s.sb := by unfold State.putExecuteFlush; split <;> rfl
@[simp] theorem State.putExecuteFlush_pc : (s.putExecuteFlush).pc = s.pc := by unfold State.putExecuteFlush; split <;> rfl
@[simp] theorem State.putExecuteFlush_idBuf : (s.putExecuteFlush).idBuf = s.idBuf := by unfold State.putExecuteFlush; split <;> rfl
@[simp] theorem State.putExecuteFlush_fetch2Decode : (s.putExecuteFlush).fetch2Decode = s.fetch2Decode := by unfold State.putExecuteFlush; split <;> rfl
@[simp] theorem State.putExecuteFlush_decode2FetchStall : (s.putExecuteFlush).decode2FetchStall = s.decode2FetchStall := by unfold State.putExecuteFlush; split <;> rfl
@[simp] theorem State.putExecuteFlush_decode2Execute : (s.putExecuteFlush).decode2Execute = s.decode2Execute := by unfold State.putExecuteFlush; split <;> rfl
@[simp] theorem State.putExecuteFlush_execute2DecodeStall : (s.putExecuteFlush).execute2DecodeStall = s.execute2DecodeStall := by unfold State.putExecuteFlush; split <;> rfl
@[simp] theorem State.putExecuteFlush_execute2Memory : (s.putExecuteFlush).execute2Memory = s.execute2Memory := by unfold State.putExecuteFlush; split <;> rfl
@[simp] theorem State.putExecuteFlush_memory2ExecuteStall : (s.putExecuteFlush).memory2ExecuteStall = s.memory2ExecuteStall := by unfold State.putExecuteFlush; split <;> rfl
@[simp] theorem State.putExecuteFlush_memory2Writeback : (s.putExecuteFlush).memory2Writeback = s.memory2Writeback := by unfold State.putExecuteFlush; split <;> rfl
@[simp] theorem State.putExecuteFlush_writeback2MemoryStall : (s.putExecuteFlush).writeback2MemoryStall = s.writeback2MemoryStall := by unfold State.putExecuteFlush; split <;> rfl
@[simp] theorem State.putExecuteFlush_memory2FetchFlush : (s.putExecuteFlush).memory2FetchFlush = s.memory2FetchFlush := by unfold State.putExecuteFlush; split <;> rfl
@[simp] theorem State.putExecuteFlush_memory2DecodeFlush : (s.putExecuteFlush).memory2DecodeFlush = s.memory2DecodeFlush := by unfold State.putExecuteFlush; split <;> rfl
@[simp] theorem State.putExecuteFlush_memory2MemoryFlush : (s.putExecuteFlush).memory2MemoryFlush = s.memory2MemoryFlush := by unfold State.putExecuteFlush; split <;> rfl
@[simp] theorem State.putExecuteFlush_memory2FetchTarget : (s.putExecuteFlush).memory2FetchTarget = s.memory2FetchTarget := by unfold State.putExecuteFlush; split <;> rfl
@[simp] theorem State.putExecuteFlush_btb : (s.putExecuteFlush).btb = s.btb := by unfold State.putExecuteFlush; split <;> rfl
@[simp] theorem State.putExecuteFlush_mem : (s.putExecuteFlush).mem = s.mem := by unfold State.putExecuteFlush; split <;> rfl
@[simp] theorem State.putExecuteFlush_cycle : (s.putExecuteFlush).cycle = s.cycle := by unfold State.putExecuteFlush; split <;> rfl
@[simp] theorem State.putExecuteFlush_executedInstrs : (s.putExecuteFlush).executedInstrs = s.executedInstrs := by unfold State.putExecuteFlush; split <;> rfl
@[simp] theorem State.putExecuteFlush_lastWritebackCycle : (s.putExecuteFlush).lastWritebackCycle = s.lastWritebackCycle := by unfold State.putExecuteFlush; split <;> rfl
@[simp] theorem State.putExecuteFlush_ref : (s.putExecuteFlush).ref = s.ref := by unfold State.putExecuteFlush; split <;> rfl
@[simp] theorem State.putExecuteFlush_ifStatus : (s.putExecuteFlush).ifStatus = s.ifStatus := by unfold State.putExecuteFlush; split <;> rfl
@[simp] theorem State.putExecuteFlush_idStatus : (s.putExecuteFlush).idStatus = s.idStatus := by unfold State.putExecuteFlush; split <;> rfl
@[simp] theorem State.putExecuteFlush_exStatus : (s.putExecuteFlush).exStatus = s.exStatus := by unfold State.putExecuteFlush; split <;> rfl
@[simp] theorem State.putExecuteFlush_memStatus : (s.putExecuteFlush).memStatus = s.memStatus := by unfold State.putExecuteFlush; split <;> rfl
@[simp] theorem State.putExecuteFlush_wbStatus : (s.putExecuteFlush).wbStatus = s.wbStatus := by unfold State.putExecuteFlush; split <;> rfl
@[simp] theorem State.putExecuteFlush_retireLog : (s.putExecuteFlush).retireLog = s.retireLog := by unfold State.putExecuteFlush; split <;> rfl
@[simp] theorem State.putExecuteFlush_acting : (s.putExecuteFlush).acting = s.acting := by unfold State.putExecuteFlush; split <;> rfl
@[simp] theorem State.putMemoryFlush_config : (s.putMemoryFlush).config = s.config := by unfold State.putMemoryFlush; split <;> rfl
@[simp] theorem State.putMemoryFlush_x : (s.putMemoryFlush).x = s.x := by unfold State.putMemoryFlush; split <;> rfl
@[simp] theorem State.putMemoryFlush_hilo : (s.putMemoryFlush).hilo = s.hilo := by unfold State.putMemoryFlush; split <;> rfl
@[simp] theorem State.putMemoryFlush_sb : (s.putMemoryFlush).sb = s.sb := by unfold State.putMemoryFlush; split <;> rfl
@[simp] theorem State.putMemoryFlush_pc : (s.putMemoryFlush).pc = s.pc := by unfold State.putMemoryFlush; split <;> rfl
@[simp] theorem State.putMemoryFlush_idBuf : (s.putMemoryFlush).idBuf = s.idBuf := by unfold State.putMemoryFlush; split <;> rfl
@[simp] theorem State.putMemoryFlush_fetch2Decode : (s.putMemoryFlush).fetch2Decode = s.fetch2Decode := by unfold State.putMemoryFlush; split <;> rfl
@[simp] theorem State.putMemoryFlush_decode2FetchStall : (s.putMemoryFlush).decode2FetchStall = s.decode2FetchStall := by unfold State.putMemoryFlush; split <;> rfl
@[simp] theorem State.putMemoryFlush_decode2Execute : (s.putMemoryFlush).decode2Execute = s.decode2Execute := by unfold State.putMemoryFlush; split <;> rfl
@[simp] theorem State.putMemoryFlush_execute2DecodeStall : (s.putMemoryFlush).execute2DecodeStall = s.execute2DecodeStall := by unfold State.putMemoryFlush; split <;> rfl
@[simp] theorem State.putMemoryFlush_execute2Memory : (s.putMemoryFlush).execute2Memory = s.execute2Memory := by unfold State.putMemoryFlush; split <;> rfl
@[simp] theorem State.putMemoryFlush_memory2ExecuteStall : (s.putMemoryFlush).memory2ExecuteStall = s.memory2ExecuteStall := by unfold State.putMemoryFlush; split <;> rfl
@[simp] theorem State.putMemoryFlush_memory2Writeback : (s.putMemoryFlush).memory2Writeback = s.memory2Writeback := by unfold State.putMemoryFlush; split <;> rfl
@[simp] theorem State.putMemoryFlush_writeback2MemoryStall : (s.putMemoryFlush).writeback2MemoryStall = s.writeback2MemoryStall := by unfold State.putMemoryFlush; split <;> rfl
@[simp] theorem State.putMemoryFlush_memory2FetchFlush : (s.putMemoryFlush).memory2FetchFlush = s.memory2FetchFlush := by unfold State.putMemoryFlush; split <;> rfl
@[simp] theorem State.putMemoryFlush_memory2DecodeFlush : (s.putMemoryFlush).memory2DecodeFlush = s.memory2DecodeFlush := by unfold State.putMemoryFlush; split <;> rfl
@[simp] theorem State.putMemoryFlush_memory2ExecuteFlush : (s.putMemoryFlush).memory2ExecuteFlush = s.memory2ExecuteFlush := by unfold State.putMemoryFlush; split <;> rfl
@[simp] theorem State.putMemoryFlush_memory2FetchTarget : (s.putMemoryFlush).memory2FetchTarget = s.memory2FetchTarget := by unfold State.putMemoryFlush; split <;> rfl
@[simp] theorem State.putMemoryFlush_btb : (s.putMemoryFlush).btb = s.btb := by unfold State.putMemoryFlush; split <;> rfl
@[simp] theorem State.putMemoryFlush_mem : (s.putMemoryFlush).mem = s.mem := by unfold State.putMemoryFlush; split <;> rfl
@[simp] theorem State.putMemoryFlush_cycle : (s.putMemoryFlush).cycle = s.cycle := by unfold State.putMemoryFlush; split <;> rfl
@[simp] theorem State.putMemoryFlush_executedInstrs : (s.putMemoryFlush).executedInstrs = s.executedInstrs := by unfold State.putMemoryFlush; split <;> rfl
@[simp] theorem State.putMemoryFlush_lastWritebackCycle : (s.putMemoryFlush).lastWritebackCycle = s.lastWritebackCycle := by unfold State.putMemoryFlush; split <;> rfl
@[simp] theorem State.putMemoryFlush_ref : (s.putMemoryFlush).ref = s.ref := by unfold State.putMemoryFlush; split <;> rfl
@[simp] theorem State.putMemoryFlush_ifStatus : (s.putMemoryFlush).ifStatus = s.ifStatus := by unfold State.putMemoryFlush; split <;> rfl
@[simp] theorem State.putMemoryFlush_idStatus : (s.putMemoryFlush).idStatus = s.idStatus := by unfold State.putMemoryFlush; split <;> rfl
@[simp] theorem State.putMemoryFlush_exStatus : (s.putMemoryFlush).exStatus = s.exStatus := by unfold State.putMemoryFlush; split <;> rfl
@[simp] theorem State.putMemoryFlush_memStatus : (s.putMemoryFlush).memStatus = s.memStatus := by unfold State.putMemoryFlush; split <;> rfl
@[simp] theorem State.putMemoryFlush_wbStatus : (s.putMemoryFlush).wbStatus = s.wbStatus := by unfold State.putMemoryFlush; split <;> rfl
@[simp] theorem State.putMemoryFlush_retireLog : (s.putMemoryFlush).retireLog = s.retireLog := by unfold State.putMemoryFlush; split <;> rfl
@[simp] theorem State.putMemoryFlush_acting : (s.putMemoryFlush).acting = s.acting := by unfold State.putMemoryFlush; split <;> rfl
@[simp] theorem State.putFetchTarget_config (a : Word) : (s.putFetchTarget a).config = s.config := by unfold State.putFetchTarget; split <;> rfl
@[simp] theorem State.putFetchTarget_x (a : Word) : (s.putFetchTarget a).x = s.x := by unfold State.putFetchTarget; split <;> rfl
@[simp] theorem State.putFetchTarget_hilo (a : Word) : (s.putFetchTarget a).hilo = s.hilo := by unfold State.putFetchTarget; split <;> rfl
@[simp] theorem State.putFetchTarget_sb (a : Word) : (s.putFetchTarget a).sb = s.sb := by unfold State.putFetchTarget; split <;> rfl
@[simp] theorem State.putFetchTarget_pc (a : Word) : (s.putFetchTarget a).pc = s.pc := by unfold State.putFetchTarget; split <;> rfl
@[simp] theorem State.putFetchTarget_idBuf (a : Word) : (s.putFetchTarget a).idBuf = s.idBuf := by unfold State.putFetchTarget; split <;> rfl
@[simp] theorem State.putFetchTarget_fetch2Decode (a : Word) : (s.putFetchTarget a).fetch2Decode = s.fetch2Decode := by unfold State.putFetchTarget; split <;> rfl
@[simp] theorem State.putFetchTarget_decode2FetchStall (a : Word) : (s.putFetchTarget a).decode2FetchStall = s.decode2FetchStall := by unfold State.putFetchTarget; split <;> rfl
@[simp] theorem State.putFetchTarget_decode2Execute (a : Word) : (s.putFetchTarget a).decode2Execute = s.decode2Execute := by unfold State.putFetchTarget; split <;> rfl
@[simp] theorem State.putFetchTarget_execute2DecodeStall (a : Word) : (s.putFetchTarget a).execute2DecodeStall = s.execute2DecodeStall := by unfold State.putFetchTarget; split <;> rfl
@[simp] theorem State.putFetchTarget_execute2Memory (a : Word) : (s.putFetchTarget a).execute2Memory = s.execute2Memory := by unfold State.putFetchTarget; split <;> rfl
@[simp] theorem State.putFetchTarget_memory2ExecuteStall (a : Word) : (s.putFetchTarget a).memory2ExecuteStall = s.memory2ExecuteStall := by unfold State.putFetchTarget; split <;> rfl
@[simp] theorem State.putFetchTarget_memory2Writeback (a : Word) : (s.putFetchTarget a).memory2Writeback = s.memory2Writeback := by unfold State.putFetchTarget; split <;> rfl
@[simp] theorem State.putFetchTarget_writeback2MemoryStall (a : Word) : (s.putFetchTarget a).writeback2MemoryStall = s.writeback2MemoryStall := by unfold State.putFetchTarget; split <;> rfl
@[simp] theorem State.putFetchTarget_memory2FetchFlush (a : Word) : (s.putFetchTarget a).memory2FetchFlush = s.memory2FetchFlush := by unfold State.putFetchTarget; split <;> rfl
@[simp] theorem State.putFetchTarget_memory2DecodeFlush (a : Word) : (s.putFetchTarget a).memory2DecodeFlush = s.memory2DecodeFlush := by unfold State.putFetchTarget; split <;> rfl
@[simp] theorem State.putFetchTarget_memory2ExecuteFlush (a : Word) : (s.putFetchTarget a).memory2ExecuteFlush = s.memory2ExecuteFlush := by unfold State.putFetchTarget; split <;> rfl
@[simp] theorem State.putFetchTarget_memory2MemoryFlush (a : Word) : (s.putFetchTarget a).memory2MemoryFlush = s.memory2MemoryFlush := by unfold State.putFetchTarget; split <;> rfl
@[simp] theorem State.putFetchTarget_btb (a : Word) : (s.putFetchTarget a).btb = s.btb := by unfold State.putFetchTarget; split <;> rfl
@[simp] theorem State.putFetchTarget_mem (a : Word) : (s.putFetchTarget a).mem = s.mem := by unfold State.putFetchTarget; split <;> rfl
@[simp] theorem State.putFetchTarget_cycle (a : Word) : (s.putFetchTarget a).cycle = s.cycle := by unfold State.putFetchTarget; split <;> rfl
@[simp] theorem State.putFetchTarget_executedInstrs (a : Word) : (s.putFetchTarget a).executedInstrs = s.executedInstrs := by unfold State.putFetchTarget; split <;> rfl
@[simp] theorem State.putFetchTarget_lastWritebackCycle (a : Word) : (s.putFetchTarget a).lastWritebackCycle = s.lastWritebackCycle := by unfold State.putFetchTarget; split <;> rfl
@[simp] theorem State.putFetchTarget_ref (a : Word) : (s.putFetchTarget a).ref = s.ref := by unfold State.putFetchTarget; split <;> rfl
@[simp] theorem State.putFetchTarget_ifStatus (a : Word) : (s.putFetchTarget a).ifStatus = s.ifStatus := by unfold State.putFetchTarget; split <;> rfl
@[simp] theorem State.putFetchTarget_idStatus (a : Word) : (s.putFetchTarget a).idStatus = s.idStatus := by unfold State.putFetchTarget; split <;> rfl
@[simp] theorem State.putFetchTarget_exStatus (a : Word) : (s.putFetchTarget a).exStatus = s.exStatus := by unfold State.putFetchTarget; split <;> rfl
@[simp] theorem State.putFetchTarget_memStatus (a : Word) : (s.putFetchTarget a).memStatus = s.memStatus := by unfold State.putFetchTarget; split <;> rfl
@[simp] theorem State.putFetchTarget_wbStatus (a : Word) : (s.putFetchTarget a).wbStatus = s.wbStatus := by unfold State.putFetchTarget; split <;> rfl
@[simp] theorem State.putFetchTarget_retireLog (a : Word) : (s.putFetchTarget a).retireLog = s.retireLog := by unfold State.putFetchTarget; split <;> rfl
@[simp] theorem State.putFetchTarget_acting (a : Word) : (s.putFetchTarget a).acting = s.acting := by unfold State.putFetchTarget; split <;> rfl

end Sys2Proof.Machine
end

