-- ==== Sys2Proof/Laws/Memory.lean ====
section
/-!
SUPPORT. The byte laws of memory: a write is read back, leaves every other byte alone, and keeps the canonical form.
-/

namespace Sys2Proof.Machine

/-- A lower bound under which a memory is in canonical form. -/
abbrev belowAll (lo : Option Nat) (addr : Nat) : Prop := ∀ l, lo = some l → l < addr

theorem memoryOkAbove_cons {lo : Option Nat} {a : Nat} {b : Byte} {m : Memory} :
    memoryOkAbove lo ((a, b) :: m) = true ↔
      belowAll lo a ∧ a < 2 ^ 32 ∧ b ≠ unlistedByte ∧ memoryOkAbove (some a) m = true := by
  cases lo <;> simp [memoryOkAbove, belowAll, and_assoc]

theorem memoryOkAbove_weaken {lo lo' : Option Nat} {m : Memory} (h : memoryOkAbove lo m = true)
    (hle : ∀ a, belowAll lo a → belowAll lo' a) : memoryOkAbove lo' m = true := by
  cases m with
  | nil => cases lo' <;> rfl
  | cons c m =>
    obtain ⟨a, b⟩ := c
    rw [memoryOkAbove_cons] at h ⊢
    exact ⟨hle a h.1, h.2⟩

theorem readByte_of_above {l : Nat} {m : Memory} (h : memoryOkAbove (some l) m = true) {addr : Nat} (ha : addr ≤ l) :
    readByte m addr = unlistedByte := by
  induction m generalizing l with
  | nil => rfl
  | cons c m ih =>
    obtain ⟨a, b⟩ := c
    rw [memoryOkAbove_cons] at h
    have hla : l < a := h.1 l rfl
    rw [readByte, if_neg (by omega)]
    exact ih h.2.2.2 (by omega)

/-- A byte written is read back (20_memory R62). -/
theorem readByte_writeByte_same {lo : Option Nat} {m : Memory} (h : memoryOkAbove lo m = true) (addr : Nat) (v : Byte) :
    readByte (writeByte m addr v) addr = v := by
  induction m generalizing lo with
  | nil => by_cases hv : v = unlistedByte <;> simp [writeByte, readByte, hv]
  | cons c m ih =>
    obtain ⟨a, b⟩ := c
    rw [memoryOkAbove_cons] at h
    unfold writeByte
    split
    · next hlt =>
      by_cases hv : v = unlistedByte
      · rw [if_pos hv, readByte, if_neg (by omega), readByte_of_above h.2.2.2 (by omega), hv]
      · simp [hv, readByte]
    · split
      · next heq =>
        by_cases hv : v = unlistedByte
        · rw [if_pos hv, readByte_of_above h.2.2.2 (by omega), hv]
        · simp [hv, readByte]
      · next hne =>
        rw [readByte, if_neg (fun he => hne he.symm)]
        exact ih h.2.2.2

/-- A write leaves every other byte alone (20_memory R62). -/
theorem readByte_writeByte_other {addr other : Nat} (hne : other ≠ addr) (m : Memory) (v : Byte) :
    readByte (writeByte m addr v) other = readByte m other := by
  induction m with
  | nil => by_cases hv : v = unlistedByte <;> simp [writeByte, readByte, hv, Ne.symm hne]
  | cons c m ih =>
    obtain ⟨a, b⟩ := c
    unfold writeByte
    split
    · by_cases hv : v = unlistedByte <;> simp [readByte, hv, Ne.symm hne]
    · split
      · next heq => subst heq; by_cases hv : v = unlistedByte <;> simp [readByte, hv, Ne.symm hne]
      · simp [readByte, ih]

theorem writeByte_okAbove {lo : Option Nat} {m : Memory} (h : memoryOkAbove lo m = true) {addr : Nat}
    (hlo : belowAll lo addr) (haddr : addr < 2 ^ 32) (v : Byte) : memoryOkAbove lo (writeByte m addr v) = true := by
  induction m generalizing lo with
  | nil =>
    by_cases hv : v = unlistedByte
    · simp only [writeByte, if_pos hv]
      cases lo <;> rfl
    · simp only [writeByte, if_neg hv]
      exact memoryOkAbove_cons.mpr ⟨hlo, haddr, hv, rfl⟩
  | cons c m ih =>
    obtain ⟨a, b⟩ := c
    have hc := memoryOkAbove_cons.mp h
    unfold writeByte
    split
    · next hlt =>
      by_cases hv : v = unlistedByte
      · simpa [hv] using h
      · simp only [if_neg hv]
        exact memoryOkAbove_cons.mpr ⟨hlo, haddr, hv,
          memoryOkAbove_cons.mpr ⟨fun l hl => by cases hl; exact hlt, hc.2⟩⟩
    · next hge =>
      split
      · next heq =>
        subst heq
        by_cases hv : v = unlistedByte
        · simp only [if_pos hv]
          exact memoryOkAbove_weaken hc.2.2.2
            fun b' hb l hl => Nat.lt_trans (hlo l hl) (hb _ rfl)
        · simp only [if_neg hv]
          exact memoryOkAbove_cons.mpr ⟨hlo, haddr, hv, hc.2.2.2⟩
      · next hne =>
        exact memoryOkAbove_cons.mpr ⟨hc.1, hc.2.1, hc.2.2.1,
          ih hc.2.2.2 (fun l hl => by cases hl; omega)⟩

/-- Writing a byte keeps the canonical form. -/
theorem writeByte_wf {m : Memory} (h : Memory.wf m = true) {addr : Nat} (haddr : addr < 2 ^ 32) (v : Byte) :
    Memory.wf (writeByte m addr v) = true :=
  writeByte_okAbove h (fun _ hl => by cases hl) haddr v

theorem writeBytes_wf {m : Memory} {cells : List (Nat × Byte)} (h : Memory.wf m = true)
    (hc : ∀ c ∈ cells, c.1 < 2 ^ 32) : Memory.wf (writeBytes m cells) = true := by
  induction cells generalizing m with
  | nil => exact h
  | cons c cells ih =>
    exact ih (writeByte_wf h (hc c (by simp)) c.2) fun c' h' => hc c' (by simp [h'])

theorem readByte_writeBytes_other {cells : List (Nat × Byte)} {other : Nat} (h : ∀ c ∈ cells, other ≠ c.1)
    (m : Memory) : readByte (writeBytes m cells) other = readByte m other := by
  induction cells generalizing m with
  | nil => rfl
  | cons c cells ih =>
    rw [writeBytes, ih (fun c' h' => h c' (by simp [h'])), readByte_writeByte_other (h c (by simp))]

theorem accessAddrs_lt {addr : Word} {n a : Nat} (h : a ∈ accessAddrs addr n) : a < 2 ^ 32 := by
  simp only [accessAddrs, List.mem_map] at h
  obtain ⟨k, -, rfl⟩ := h
  exact BitVec.isLt _

/-- An allowed MemWrite keeps the canonical form. -/
theorem memStored_wf {m : Memory} (h : Memory.wf m = true) (c : CoreConfig) (addr : Word) (n : Nat) (v : Word) :
    Memory.wf (memStored c m addr n v) = true :=
  writeBytes_wf h fun _ hc => accessAddrs_lt (List.of_mem_zip hc).1

/-- MemWrite keeps the canonical form. -/
theorem memWrite_wf {m m' : Memory} (h : Memory.wf m = true) {c : CoreConfig} {addr : Word} {n : Nat} {v : Word}
    (hw : memWrite c m addr n v = .ok m') : Memory.wf m' = true := by
  unfold memWrite at hw
  split at hw
  · cases hw; exact memStored_wf h c addr n v
  · cases hw

/-- Placing a program keeps the canonical form. -/
theorem placeWords_wf {m : Memory} (h : Memory.wf m = true) (c : CoreConfig) (addr : Word) (ws : List Word) :
    Memory.wf (placeWords c m addr ws) = true := by
  induction ws generalizing m addr with
  | nil => exact h
  | cons w ws ih => exact ih (memStored_wf h c addr 4 w) (addr + 4)

/-- The two outcomes of MemRead (20_memory R64). -/
theorem memRead_cases (c : CoreConfig) (m : Memory) (addr : Word) (n : Nat) :
    (accessAllowed c addr n = true ∧ memRead c m addr n = .ok (memValue c m addr n)) ∨
      (accessAllowed c addr n = false ∧ memRead c m addr n = .error (.misaligned addr n)) := by
  unfold memRead
  cases accessAllowed c addr n <;> simp

/-- The two outcomes of MemWrite (20_memory R64). -/
theorem memWrite_cases (c : CoreConfig) (m : Memory) (addr : Word) (n : Nat) (v : Word) :
    (accessAllowed c addr n = true ∧ memWrite c m addr n v = .ok (memStored c m addr n v)) ∨
      (accessAllowed c addr n = false ∧ memWrite c m addr n v = .error (.misaligned addr n)) := by
  unfold memWrite
  cases accessAllowed c addr n <;> simp

/-- The memory of State.reset is in canonical form. -/
theorem reset_mem_wf : Memory.wf State.reset.mem = true := rfl

/-! ### The low bytes of a value (20_memory R62, 45_driver R268) -/

/-- The first byte of a value, then the bytes of the rest. -/
theorem splitBytes_succ (n : Nat) (v : Word) : splitBytes (n + 1) v = v.extractLsb' 0 8 :: splitBytes n (v >>> 8) := by
  unfold splitBytes
  rw [List.range_succ_eq_map, List.map_cons, List.map_map]
  congr 1
  refine List.map_congr_left fun k _ => ?_
  apply BitVec.eq_of_getLsbD_eq
  intro i hi
  simp [BitVec.getLsbD_extractLsb', show 8 * (k + 1) + i = 8 + (8 * k + i) by omega]

/-- The bits of the mask of the low `k` bits. -/
theorem lowMask_getLsbD (k i : Nat) : (BitVec.ofNat 32 (2 ^ k - 1)).getLsbD i = (decide (i < 32) && decide (i < k)) := by
  rw [BitVec.getLsbD_ofNat, Nat.testBit_two_pow_sub_one]

/-- The low `n` bytes are the value under a mask of `8 n` bits. -/
theorem lowBytes_eq_mask (n : Nat) (v : Word) : lowBytes n v = v &&& BitVec.ofNat 32 (2 ^ (8 * n) - 1) := by
  unfold lowBytes
  induction n generalizing v with
  | zero => simp [splitBytes, assembleBytes]
  | succ n ih =>
    rw [splitBytes_succ, assembleBytes, ih]
    apply BitVec.eq_of_getLsbD_eq
    intro i hi
    rw [BitVec.getLsbD_or, BitVec.getLsbD_shiftLeft, BitVec.getLsbD_and, BitVec.getLsbD_and, lowMask_getLsbD,
      lowMask_getLsbD, BitVec.getLsbD_ushiftRight, BitVec.getLsbD_setWidth, BitVec.getLsbD_extractLsb']
    by_cases h8 : i < 8
    · simp [h8, hi, show i < 8 * (n + 1) by omega]
    · have h2 : decide (i - 8 < 8 * n) = decide (i < 8 * (n + 1)) := decide_eq_decide.2 (by omega)
      simp [h8, hi, h2, show 8 + (i - 8) = i by omega, show i - 8 < 32 by omega]

end Sys2Proof.Machine
end

