-- ==== Sys2Proof/Laws/PerInstr.lean ====
section
/-!
SUPPORT. Families of facts about every instruction as syntax, one lemma per constructor (LAWS.json "per_instruction").
-/

/-- The class vector of every instruction is one of the four legal ones (30_encoding R85, R86). -/
def Sys2Proof.Laws.OneClass.Statement (i : Sys2Proof.Instr) : Prop :=
  (i.isLoad && i.isStore) = false ∧ (i.isLoad && i.isJump) = false ∧ (i.isStore && i.isJump) = false

namespace Sys2Proof.Laws.OneClass

theorem other (src1 src2 dst : Option RegIdx) (op : Word) : Statement (.other src1 src2 dst op) := ⟨rfl, rfl, rfl⟩
theorem jump (src1 src2 dst : Option RegIdx) (op : Word) : Statement (.jump src1 src2 dst op) := ⟨rfl, rfl, rfl⟩
theorem store (src1 src2 dst : Option RegIdx) (n : Nat) (op : Word) : Statement (.store src1 src2 dst n op) := ⟨rfl, rfl, rfl⟩
theorem load (src1 src2 dst : Option RegIdx) (n : Nat) (op : Word) : Statement (.load src1 src2 dst n op) := ⟨rfl, rfl, rfl⟩
theorem addu (rd rs rt : BitVec 5) : Statement (.addu rd rs rt) := ⟨rfl, rfl, rfl⟩
theorem sll (rd rt sa : BitVec 5) : Statement (.sll rd rt sa) := ⟨rfl, rfl, rfl⟩
theorem jr (rs : BitVec 5) : Statement (.jr rs) := ⟨rfl, rfl, rfl⟩
theorem addiu (rt rs : BitVec 5) (imm : BitVec 16) : Statement (.addiu rt rs imm) := ⟨rfl, rfl, rfl⟩
theorem beq (rs rt : BitVec 5) (imm : BitVec 16) : Statement (.beq rs rt imm) := ⟨rfl, rfl, rfl⟩
theorem bne (rs rt : BitVec 5) (imm : BitVec 16) : Statement (.bne rs rt imm) := ⟨rfl, rfl, rfl⟩
theorem j (idx : BitVec 26) : Statement (.j idx) := ⟨rfl, rfl, rfl⟩
theorem jal (idx : BitVec 26) : Statement (.jal idx) := ⟨rfl, rfl, rfl⟩
theorem lw (rt rs : BitVec 5) (imm : BitVec 16) : Statement (.lw rt rs imm) := ⟨rfl, rfl, rfl⟩
theorem sw (rt rs : BitVec 5) (imm : BitVec 16) : Statement (.sw rt rs imm) := ⟨rfl, rfl, rfl⟩

end Sys2Proof.Laws.OneClass
end

