-- ==== Sys2Proof/Laws/Ports.lean ====
section
/-!
SUPPORT. What a port operation can do (40_port_fabric R102 to R107, R112), said once for each.
-/

namespace Sys2Proof.Machine

variable {α : Type}

/-- A write appends one entry of the current cycle, when none is there (40_port_fabric R102). -/
theorem portWrite_some {t : Nat} {v : α} {q q' : Port α} (h : portWrite t v q = some q') :
    q' = q ++ [{ cycleWritten := t, value := v }] ∧ ∀ e ∈ q, e.cycleWritten ≠ t := by
  unfold portWrite at h
  split at h
  · cases h
  · next hany => cases h; exact ⟨rfl, by simpa using hany⟩

theorem portWrite_of_free {t : Nat} {q : Port α} (h : ∀ e ∈ q, e.cycleWritten ≠ t) (v : α) :
    portWrite t v q = some (q ++ [{ cycleWritten := t, value := v }]) := by
  unfold portWrite
  rw [if_neg]
  simpa using h

theorem portWrite_of_taken {t : Nat} {q : Port α} {e : Entry α} (h : e ∈ q) (he : e.cycleWritten = t) (v : α) :
    portWrite t v q = none := by
  unfold portWrite
  rw [if_pos]
  simpa using ⟨e, h, he⟩

/-- A successful read returns the oldest entry, which is ready, and removes it (40_port_fabric R103). -/
theorem portRead_some {t : Nat} {q rest : Port α} {v : α} (h : portRead t q = some (v, rest)) :
    ∃ e, q = e :: rest ∧ e.value = v ∧ e.cycleWritten < t := by
  cases q with
  | nil => cases h
  | cons e q =>
    simp only [portRead] at h
    split at h
    · next hr => cases h; exact ⟨e, rfl, rfl, hr⟩
    · cases h

/-- A failed read: the queue is empty or its oldest entry was written in this cycle or later (40_port_fabric R103). -/
theorem portRead_none {t : Nat} {q : Port α} (h : portRead t q = none) : q = [] ∨ ∃ e rest, q = e :: rest ∧ t ≤ e.cycleWritten := by
  cases q with
  | nil => exact .inl rfl
  | cons e q =>
    simp only [portRead] at h
    split at h
    · cases h
    · next hr => exact .inr ⟨e, q, rfl, Nat.not_lt.mp hr⟩

theorem portRead_cons_ready {t : Nat} {e : Entry α} (h : e.cycleWritten < t) (q : Port α) :
    portRead t (e :: q) = some (e.value, q) := by
  simp only [portRead]
  exact if_pos h

theorem portRead_cons_fresh {t : Nat} {e : Entry α} (h : t ≤ e.cycleWritten) (q : Port α) :
    portRead t (e :: q) = none := by
  simp only [portRead]
  exact if_neg (Nat.not_lt.mpr h)

theorem portAfterRead_nil (t : Nat) : portAfterRead t ([] : Port α) = [] := rfl

theorem portRaised_nil (t : Nat) : portRaised t [] = false := rfl

theorem portRaised_cons_ready {t : Nat} {e : Entry Bool} (h : e.cycleWritten < t) (q : Port Bool) :
    portRaised t (e :: q) = e.value := by
  unfold portRaised
  rw [portRead_cons_ready h]

theorem portAfterRead_cons_ready {t : Nat} {e : Entry α} (h : e.cycleWritten < t) (q : Port α) :
    portAfterRead t (e :: q) = q := by
  unfold portAfterRead
  rw [portRead_cons_ready h]

/-- A raised signal was a ready `true` at the head (40_port_fabric R112). -/
theorem portRaised_true {t : Nat} {q : Port Bool} (h : portRaised t q = true) :
    ∃ e rest, q = e :: rest ∧ e.value = true ∧ e.cycleWritten < t := by
  unfold portRaised at h
  split at h
  · cases h
  · next v rest hr => obtain ⟨e, hq, hv, he⟩ := portRead_some hr; exact ⟨e, rest, hq, hv.trans h, he⟩

theorem portKept_of_ready {t : Nat} {q : Port α} (h : ∀ e ∈ q, e.cycleWritten < t) : portKept t q = [] := by
  unfold portKept
  simpa using h

theorem portFlushed_of_ready {t : Nat} {q : Port α} (h : ∀ e ∈ q, e.cycleWritten < t) :
    portFlushed t q = q.map Entry.value := by
  unfold portFlushed
  rw [List.filter_eq_self.mpr (by simpa using h)]

end Sys2Proof.Machine
end

