-- ==== Sys2Proof/Laws/Predictor.lean ====
section
/-!
SUPPORT. Small laws of the branch predictor's operations (41_branch_predictor R125 to R137).
-/

namespace Sys2Proof.Machine

/-- Touching keeps a permutation of the ways (41_branch_predictor R125). -/
theorem touchOrder_perm {lru : List Nat} {w : Nat} (h : w ∈ lru) : (touchOrder lru w).Perm lru := by
  unfold touchOrder
  exact (List.perm_append_comm.trans (List.perm_cons_erase h).symm)

/-- A second touch of the most recent way changes nothing (41_branch_predictor R144). -/
theorem touchOrder_idem {lru : List Nat} {w : Nat} (h : lru.Nodup) :
    touchOrder (touchOrder lru w) w = touchOrder lru w := by
  unfold touchOrder
  have hw : w ∉ lru.erase w := by simp [h.mem_erase_iff]
  rw [List.erase_append_right _ hw]
  simp

/-- The counter stays in its range (41_branch_predictor R133). -/
theorem sat_le {c : CoreConfig} {v : Nat} (h : v ≤ c.maxState) (taken : Bool) : sat c v taken ≤ c.maxState := by
  unfold sat
  split
  · exact Nat.min_le_right _ _
  · omega

/-- The pattern stays L bits wide (41_branch_predictor R137). -/
theorem shiftPattern_lt (c : CoreConfig) (k : Nat) (taken : Bool) : shiftPattern c k taken < c.tableSize := by
  have hpos : 0 < c.tableSize := Nat.two_pow_pos _
  have : shiftPattern c k taken ≤ c.patternMask := Nat.and_le_right
  unfold CoreConfig.patternMask at this
  omega

/-- Replacing one set leaves every other set (41_branch_predictor R122). -/
theorem btbSet_set_ne {btb : Btb} {i j : Nat} (h : j ≠ i) (b : BtbSet) : btbSet (btb.set i b) j = btbSet btb j := by
  simp [btbSet, List.getD, Ne.symm h]

/-- A miss of the tag read changes nothing (41_branch_predictor R126). -/
theorem tagRead_miss {c : CoreConfig} {btb : Btb} {a : Word} (h : tagHit c btb a = none) : tagRead c btb a = btb := by
  unfold tagRead; rw [h]

/-- A miss predicts not taken (41_branch_predictor R131). -/
theorem predictTaken_miss {c : CoreConfig} {btb : Btb} {a : Word} (h : tagHit c btb a = none) :
    predictTaken c btb a = false := by
  unfold predictTaken; rw [h]

/-- A miss has the sequential target (41_branch_predictor R132). -/
theorem getTarget_miss {c : CoreConfig} {btb : Btb} {a : Word} (h : tagHit c btb a = none) :
    getTarget c btb a = a + 4 := by
  unfold getTarget; rw [h]

/-- A taken prediction needs a hit (43_stages R186). -/
theorem hit_of_predictTaken {c : CoreConfig} {btb : Btb} {a : Word} (h : predictTaken c btb a = true) :
    ∃ w, tagHit c btb a = some w := by
  unfold predictTaken at h
  split at h
  · cases h
  · next w hw => exact ⟨w, hw⟩

/-- A legal configuration has a power of two of sets (41_branch_predictor R121). -/
theorem legal_sets_two_pow (c : CoreConfig) (h : c.legal = true) : ∃ k, c.btbSize / c.btbWays = 2 ^ k := by
  unfold CoreConfig.legal CoreConfig.firstFailure at h
  split at h; · cases h
  split at h; · cases h
  split at h; · cases h
  next h3 => simp only [isPowerOfTwo, Decidable.not_not, Bool.and_eq_true, beq_iff_eq] at h3; exact ⟨_, h3.2.symm⟩

/-- With distinct valid tags, the search finds the one way that holds the tag (41_branch_predictor R126). -/
theorem findWay_iff {tags : List (Option Nat)} {t : Nat} (h : (tags.filterMap id).Nodup) (w : Nat) :
    findWay tags t = some w ↔ tags[w]? = some (some t) := by
  unfold findWay
  induction tags generalizing w with
  | nil => simp
  | cons x tags ih =>
    rw [List.findIdx?_cons]
    have hn : (tags.filterMap id).Nodup := by
      cases x <;> simp at h
      · exact h
      · exact h.2
    by_cases hx : x = some t
    · subst hx
      have hm : ∀ k : Nat, tags[k]? ≠ some (some t) := by
        intro k hk
        simp at h
        exact h.1 (List.mem_of_getElem? hk)
      simp
      cases w with
      | zero => simp
      | succ w => simp; exact hm w
    · simp [hx]
      cases w with
      | zero => simp [hx]
      | succ w => simpa using ih hn w

end Sys2Proof.Machine
end

