-- ==== Sys2Proof/Laws/Stages.lean ====
section
/-!
SUPPORT. What each shared operation of the stages can do, said once: if it answers a next state, that state is one of
the named ones. Later proofs cite these and do not unfold the operations.
-/

namespace Sys2Proof.Machine

/-! ### Sequencing -/

theorem State.andThen_running {s : State} (h : s.runStatus = .running) (f : State → State) : s.andThen f = f s := by
  unfold State.andThen; rw [h]

theorem State.andThen_ended {s : State} (h : s.runStatus ≠ .running) (f : State → State) : s.andThen f = s := by
  unfold State.andThen
  split
  · next h' => exact absurd h' h
  · rfl
  · rfl

theorem andThenStage_running {s : State} (h : s.runStatus = .running) (f : State → Result) :
    andThenStage (.next s) f = f s := by
  simp [andThenStage, h]

theorem andThenStage_ended {s : State} (h : s.runStatus ≠ .running) (f : State → Result) :
    andThenStage (.next s) f = .next s := by
  unfold andThenStage
  split
  · next s' hs =>
    cases hs
    split
    · next h' => exact absurd h' h
    · rfl
    · rfl
  · next hs => cases hs
  · next hs => cases hs

/-- A sequence answers a next state only through a next state of its first part (60_exceptions R283). -/
theorem andThenStage_next {r : Result} {f : State → Result} {t : State} (h : andThenStage r f = .next t) :
    ∃ s, r = .next s ∧ ((s.runStatus = .running ∧ f s = .next t) ∨ (s.runStatus ≠ .running ∧ t = s)) := by
  cases r with
  | next s =>
    by_cases hs : s.runStatus = .running
    · exact ⟨s, rfl, .inl ⟨hs, by rwa [andThenStage_running hs] at h⟩⟩
    · rw [andThenStage_ended hs] at h
      cases h
      exact ⟨t, rfl, .inr ⟨hs, rfl⟩⟩
  | fault e => simp [andThenStage] at h
  | refused e => simp [andThenStage] at h

/-! ### Port writes into the state -/

/-- A write of P3 appends the record, or raises PORT_BANDWIDTH and writes nothing (40_port_fabric R102). -/
theorem putDecode2Execute_cases (v : InstrRec) (s : State) :
    ((∀ e ∈ s.decode2Execute, e.cycleWritten ≠ s.cycle) ∧
        s.putDecode2Execute v = { s with decode2Execute := s.decode2Execute ++ [⟨s.cycle, v⟩] }) ∨
      s.putDecode2Execute v = s.raise (.portBandwidth .decode2Execute) := by
  unfold State.putDecode2Execute
  split
  · next q hq => obtain ⟨rfl, hf⟩ := portWrite_some hq; exact .inl ⟨hf, rfl⟩
  · exact .inr rfl

/-- A write of P5 (40_port_fabric R102). -/
theorem putExecute2Memory_cases (v : InstrRec) (s : State) :
    ((∀ e ∈ s.execute2Memory, e.cycleWritten ≠ s.cycle) ∧
        s.putExecute2Memory v = { s with execute2Memory := s.execute2Memory ++ [⟨s.cycle, v⟩] }) ∨
      s.putExecute2Memory v = s.raise (.portBandwidth .execute2Memory) := by
  unfold State.putExecute2Memory
  split
  · next q hq => obtain ⟨rfl, hf⟩ := portWrite_some hq; exact .inl ⟨hf, rfl⟩
  · exact .inr rfl

/-- A write of P7 (40_port_fabric R102). -/
theorem putMemory2Writeback_cases (v : InstrRec) (s : State) :
    ((∀ e ∈ s.memory2Writeback, e.cycleWritten ≠ s.cycle) ∧
        s.putMemory2Writeback v = { s with memory2Writeback := s.memory2Writeback ++ [⟨s.cycle, v⟩] }) ∨
      s.putMemory2Writeback v = s.raise (.portBandwidth .memory2Writeback) := by
  unfold State.putMemory2Writeback
  split
  · next q hq => obtain ⟨rfl, hf⟩ := portWrite_some hq; exact .inl ⟨hf, rfl⟩
  · exact .inr rfl

/-- A write of P1 (40_port_fabric R102). -/
theorem putFetch2Decode_cases (v : IfIdData) (s : State) :
    ((∀ e ∈ s.fetch2Decode, e.cycleWritten ≠ s.cycle) ∧
        s.putFetch2Decode v = { s with fetch2Decode := s.fetch2Decode ++ [⟨s.cycle, v⟩] }) ∨
      s.putFetch2Decode v = s.raise (.portBandwidth .fetch2Decode) := by
  unfold State.putFetch2Decode
  split
  · next q hq => obtain ⟨rfl, hf⟩ := portWrite_some hq; exact .inl ⟨hf, rfl⟩
  · exact .inr rfl

/-- A write of P2 (40_port_fabric R102). -/
theorem putDecode2FetchStall_cases (s : State) :
    ((∀ e ∈ s.decode2FetchStall, e.cycleWritten ≠ s.cycle) ∧
        s.putDecode2FetchStall = { s with decode2FetchStall := s.decode2FetchStall ++ [⟨s.cycle, true⟩] }) ∨
      s.putDecode2FetchStall = s.raise (.portBandwidth .decode2FetchStall) := by
  unfold State.putDecode2FetchStall
  split
  · next q hq => obtain ⟨rfl, hf⟩ := portWrite_some hq; exact .inl ⟨hf, rfl⟩
  · exact .inr rfl

/-! ### The stage operations -/

/-- What Decode's input step can do (43_stages R192): keep a buffered packet, find none ready, or take the oldest. -/
theorem takePacket_cases (s : State) :
    (s.idBuf ≠ none ∧ s.takePacket = s) ∨
      (s.idBuf = none ∧ portRead s.cycle s.fetch2Decode = none ∧ s.takePacket = s) ∨
      ∃ p q, s.idBuf = none ∧ portRead s.cycle s.fetch2Decode = some (p, q) ∧
        s.takePacket = { s with fetch2Decode := q, idBuf := some p } := by
  unfold State.takePacket
  split
  · next p hp => exact .inl ⟨by simp [hp], rfl⟩
  · next hp =>
    split
    · next hr => exact .inr (.inl ⟨hp, hr, rfl⟩)
    · next p q hr => exact .inr (.inr ⟨p, q, hp, hr, rfl⟩)

/-- `issueOp` answers a next state exactly when Decode holds a packet, and never refuses (43_stages R195, R196). -/
theorem issueOp_next {b : Body} {s : State} {p : IfIdData} (hp : s.idBuf = some p) : ∃ t, issueOp b s = .next t := by
  unfold issueOp
  rw [hp]
  dsimp only
  split
  · exact ⟨_, rfl⟩
  · exact ⟨_, rfl⟩

/-- `executeOp` answers a next state when a record is ready (43_stages R199). -/
theorem executeOp_next {f : InstrRec → InstrRec} {s : State} {r : InstrRec} {q : Port InstrRec}
    (h : portRead s.cycle s.decode2Execute = some (r, q)) : ∃ t, executeOp f s = .next t := by
  unfold executeOp
  rw [h]
  exact ⟨_, rfl⟩

/-- `memoryOp` answers a next state when a record is ready (43_stages R203). -/
theorem memoryOp_next {i : Instr} {access : Access} {s : State} {r : InstrRec} {q : Port InstrRec}
    (h : portRead s.cycle s.execute2Memory = some (r, q)) : ∃ t, memoryOp i access s = .next t := by
  unfold memoryOp
  rw [h]
  exact ⟨_, rfl⟩

/-- `retireOp` answers a next state when a record is ready (43_stages R210). -/
theorem retireOp_next {b : Body} {s : State} {r : InstrRec} {q : Port InstrRec}
    (h : portRead s.cycle s.memory2Writeback = some (r, q)) : ∃ t, retireOp b s = .next t := by
  unfold retireOp
  rw [h]
  exact ⟨_, rfl⟩

/-- A REF that is not the canonical one: its record is a function of its launch state and its step count, and it moves
only the count (45_driver R269, log 16). -/
theorem refStep_external {c : CoreConfig} {key : Nat} (h : c.refModel = .external key) (r : RefState) :
    refStep c r = some (Config.refRecord key r.start r.steps, { r with steps := r.steps + 1 }) := by
  unfold refStep; rw [h]

/-- What the check of Writeback can do (43_stages R212, 45_driver R269): nothing when detached; step REF, and raise
CHECKER_MISMATCH unless its record is the CORE's, when attached. -/
theorem checkRecord_cases (rec_ : RetireRecord) (s : State) :
    (s.config.checker = .detached ∧ s.checkRecord rec_ = s) ∨
      (∃ ref', s.config.checker = .attached ∧ refStep s.config s.ref = some (rec_, ref') ∧
        s.checkRecord rec_ = { s with ref := ref' }) ∨
      (∃ other ref', s.config.checker = .attached ∧
        s.checkRecord rec_ = ({ s with ref := ref' }).raise (.checkerMismatch rec_ other)) := by
  unfold State.checkRecord
  cases hc : s.config.checker with
  | detached => exact .inl ⟨rfl, rfl⟩
  | attached =>
    dsimp only
    cases hr : refStep s.config s.ref with
    | none => exact .inr (.inr ⟨none, s.ref, rfl, rfl⟩)
    | some pr =>
      obtain ⟨refRec, ref'⟩ := pr
      dsimp only
      by_cases h : rec_ = refRec
      · subst h
        exact .inr (.inl ⟨ref', rfl, rfl, if_pos rfl⟩)
      · exact .inr (.inr ⟨some refRec, ref', rfl, if_neg h⟩)

/-- What a memory access can do: leave memory and record alone, load, store, or raise MISALIGNED (43_stages R208). -/
theorem loadAccess_cases (n : Nat) (r : InstrRec) (s : State) :
    (accessAllowed s.config r.out.memAddr n = true ∧
        loadAccess n r s = .ok ({ r with result := some { r.out with vDst := wideWord (memValue s.config s.mem r.out.memAddr n) } }, s.mem)) ∨
      (accessAllowed s.config r.out.memAddr n = false ∧ loadAccess n r s = .error (.misaligned r.out.memAddr n)) := by
  unfold loadAccess
  rcases memRead_cases s.config s.mem r.out.memAddr n with ⟨ha, h⟩ | ⟨ha, h⟩
  · exact .inl ⟨ha, by rw [h]; rfl⟩
  · exact .inr ⟨ha, by rw [h]; rfl⟩

theorem storeAccess_cases (n : Nat) (r : InstrRec) (s : State) :
    (accessAllowed s.config r.out.memAddr n = true ∧
        storeAccess n r s = .ok (r, memStored s.config s.mem r.out.memAddr n (lowWord r.vSrc2))) ∨
      (accessAllowed s.config r.out.memAddr n = false ∧ storeAccess n r s = .error (.misaligned r.out.memAddr n)) := by
  unfold storeAccess
  rcases memWrite_cases s.config s.mem r.out.memAddr n (lowWord r.vSrc2) with ⟨ha, h⟩ | ⟨ha, h⟩
  · exact .inl ⟨ha, by rw [h]; rfl⟩
  · exact .inr ⟨ha, by rw [h]; rfl⟩

/-! ### exec by stage -/

/-- EXECUTE as the instruction's own arm uses it. -/
def executeOf (key : Nat) (i : Instr) : Word → DWord → DWord → ExecOut := executeInstr key i

/-- The memory access of an instruction's class. -/
def accessOf (i : Instr) : Access :=
  if i.isLoad then loadAccess i.memSize else if i.isStore then storeAccess i.memSize else noAccess

/-- Every arm of `exec` is `runStage` with its EXECUTE and its class's access: the one lemma that unfolds the meanings. -/
theorem exec_eq_runStage (i : Instr) (s : State) :
    exec i s = runStage i (executeOf (isaKey s.config.isa) i) (accessOf i) s := by
  cases i <;> rfl

theorem exec_decode {i : Instr} {s : State} (h : s.acting = .decode) : exec i s = issueOp (.live i) s := by
  rw [exec_eq_runStage]; unfold runStage; rw [h]

theorem exec_execute {i : Instr} {s : State} (h : s.acting = .execute) :
    exec i s = executeOp (withResult i.dst (executeOf (isaKey s.config.isa) i)) s := by
  rw [exec_eq_runStage]; unfold runStage; rw [h]

theorem exec_memory {i : Instr} {s : State} (h : s.acting = .memory) : exec i s = memoryOp i (accessOf i) s := by
  rw [exec_eq_runStage]; unfold runStage; rw [h]

theorem exec_writeback {i : Instr} {s : State} (h : s.acting = .writeback) : exec i s = retireOp (.live i) s := by
  rw [exec_eq_runStage]; unfold runStage; rw [h]

/-! ### The step -/

/-- What a step can do (45_driver R261): stay in a terminal state, end a run whose budget is met, or run one cycle. -/
theorem step_cases (s : State) :
    (s.runStatus ≠ .running ∧ step s = .next s) ∨
      (s.runStatus = .running ∧ s.config.instrsToRun ≤ s.executedInstrs ∧ step s = .next { s with runStatus := .done }) ∨
      (s.runStatus = .running ∧ s.executedInstrs < s.config.instrsToRun ∧
        step s = andThenStage (cycleStep s) fun t => .next t.endCycle) := by
  unfold step driverStep
  cases h : s.runStatus with
  | done => exact .inl ⟨by simp, rfl⟩
  | faulted f => exact .inl ⟨by simp, rfl⟩
  | running =>
    by_cases hb : s.config.instrsToRun ≤ s.executedInstrs
    · exact .inr (.inl ⟨rfl, hb, by simp [hb]⟩)
    · exact .inr (.inr ⟨rfl, Nat.lt_of_not_le hb, by simp [hb]⟩)

/-- What the driver does after a complete cycle (45_driver R261 to R263). -/
theorem endCycle_cases (s : State) :
    (s.config.watchdogLimit ≤ s.cycle + 1 - s.lastWritebackCycle ∧
        s.endCycle = ({ s with cycle := s.cycle + 1, acting := .fetch }).raise (.deadlock (s.cycle + 1))) ∨
      (s.cycle + 1 - s.lastWritebackCycle < s.config.watchdogLimit ∧ s.config.instrsToRun ≤ s.executedInstrs ∧
        s.endCycle = { s with cycle := s.cycle + 1, acting := .fetch, runStatus := .done }) ∨
      (s.cycle + 1 - s.lastWritebackCycle < s.config.watchdogLimit ∧ s.executedInstrs < s.config.instrsToRun ∧
        s.endCycle = { s with cycle := s.cycle + 1, acting := .fetch }) := by
  unfold State.endCycle
  dsimp only
  split
  · next h => exact .inl ⟨h, rfl⟩
  · next h =>
    split
    · next hb => exact .inr (.inl ⟨by omega, hb, rfl⟩)
    · next hb => exact .inr (.inr ⟨by omega, by omega, rfl⟩)

end Sys2Proof.Machine
end

