-- ==== Sys2Proof/Tests/Slice0.lean ====
section
/-!
SUPPORT. Tests by the kernel. Expected results are the vectors of 95_test_vectors, or hand calculations from its
tables; each comment names the source. The last part holds a witness for each statement that has hypotheses.
-/

open Sys2Proof Sys2Proof.Machine

namespace Sys2Proof.Tests

/-! ### Well-formedness and decoding -/

/-- 30_encoding R86: a load of 3 bytes and a store of 0 bytes are refused. -/
theorem test_wellFormed_size :
    (Instr.load none none none 3 0).wellFormed = false ∧ (Instr.store none none none 0 0).wellFormed = false ∧
      (Instr.load none none none 4 0).wellFormed = true ∧ (Instr.store none none none 1 0).wellFormed = true := by decide

/-- A descriptor with the given class vector and size. -/
def descriptor (isLoad isStore isJump : Bool) (memSize : Nat) (src1 : Option Nat) : Descriptor :=
  { src1 := src1, src2 := none, dst := none, isLoad := isLoad, isStore := isStore, isJump := isJump, memSize := memSize, op := 0 }

/-- 30_encoding R86: each kind of ill-formed descriptor. -/
theorem test_classify_illFormed :
    classify (descriptor false true true 4 none) = none ∧ classify (descriptor true false true 4 none) = none ∧
      classify (descriptor true true false 4 none) = none ∧ classify (descriptor true true true 4 none) = none ∧
      classify (descriptor true false false 3 none) = none ∧ classify (descriptor false true false 8 none) = none ∧
      classify (descriptor false false false 0 (some 33)) = none ∧
      classify (descriptor false false false 0 (some 32)) = some (.other (some 32) none none 0) := by decide

/-- The fixture rows of 95_test_vectors 1.2, from the words of 1.4 and words put together from the row's fields:
0x00085080 is op 0, rt 8, rd 10, sa 2; 0x11090004 is op 4, rs 8, rt 9, imm 4; 0x0C100004 is op 3. -/
theorem test_decode_fixture :
    decode [0x01095021] = some (.addu 10 8 9) ∧ decode [0x00085080] = some (.sll 10 8 2) ∧
      decode [0x03E00008] = some (.jr 31) ∧ decode [0x2508FFFF] = some (.addiu 8 8 0xFFFF) ∧
      decode [0x11090004] = some (.beq 8 9 4) ∧ decode [0x1500FFFD] = some (.bne 8 0 0xFFFD) ∧
      decode [0x08100002] = some (.j 0x100002) ∧ decode [0x0C100004] = some (.jal 0x100004) ∧
      decode [0x8C090200] = some (.lw 9 0 0x200) ∧ decode [0xAC0A0204] = some (.sw 10 0 0x204) := by decide

/-- The conditions of 95_test_vectors 1.2 refuse a neighbour: addu with sa = 1, sll with rs = 1, jr with rt = 1. -/
theorem test_decode_reserved :
    decode [0x01095061] = none ∧ decode [0x00200000] = none ∧ decode [0x03E10008] = none ∧
      decode [0xFFFFFFFF] = none := by decide

/-- 30_encoding R85: the class rows, with operands r1, r2, r3 in the layout of log 6. -/
theorem test_decode_classes :
    decode [0x00020610, 7] = some (.other (some 1) (some 2) (some 3) 7) ∧ decode [0x00000001, 7] = some (.jump none none none 7) ∧
      decode [0x00000612, 7] = some (.store (some 1) (some 2) none 1 7) ∧
      decode [0x00420014, 7] = some (.load (some 1) none (some 3) 4 7) := by decide

/-- 30_encoding R88: the packed fetch packet. -/
theorem test_packet :
    unpackPacket (IfIdData.pack { raw := 0x12345678, pc := 0x400000, predictedTaken := true, predictedTarget := 0x400008 })
      = { raw := 0x12345678, pc := 0x400000, predictedTaken := true, predictedTarget := 0x400008 } := by decide

/-! ### Construction (95_test_vectors 2.3, V-PORT-7) -/

/-- A launch with the given BTB at fixture values. -/
def launchOf (size ways bits level ipBits : Nat) : Launch :=
  { Launch.default with
    config := { Launch.default.config with btbSize := size, btbWays := ways, predictionBits := bits, predictionLevel := level, branchIpBits := ipBits } }

theorem test_construction :
    (construct (launchOf 100 20 2 0 32)).runStatus = .faulted (.configInvalid 3) ∧
      (construct (launchOf 128 14 2 0 32)).runStatus = .faulted (.configInvalid 2) ∧
      (construct (launchOf 120 20 40 0 32)).runStatus = .faulted (.configInvalid 3) ∧
      (construct (launchOf 128 0 2 0 32)).runStatus = .faulted (.configInvalid 1) ∧
      (construct (launchOf 128 4 33 0 32)).runStatus = .faulted (.configInvalid 4) ∧
      (construct (launchOf 128 4 2 17 32)).runStatus = .faulted (.configInvalid 5) ∧
      (construct (launchOf 128 4 2 0 33)).runStatus = .faulted (.configInvalid 6) ∧
      (construct (launchOf 4 4 2 0 32)).runStatus = .running ∧ (construct (launchOf 128 16 2 0 32)).runStatus = .running := by
  decide

theorem test_unpaired_port :
    (constructWith (coreEnds.drop 1) Launch.default).runStatus = .faulted (.portUnpaired .fetch2Decode) := by decide

/-! ### Branch predictor (95_test_vectors 2.4, 3) -/

/-- A fresh BTB of a configuration. -/
def freshBtb (l : Launch) : Btb := (State.ofLaunch l).btb

/-- The counters, pattern and target of the first way of an address's set. -/
def firstEntry (c : CoreConfig) (btb : Btb) (a : Word) : List Nat × Nat × Word :=
  let e := btbEntry (btbSet btb (setOf c a)) 0
  (e.stateTable, e.currentPattern, e.target)

/-- S2, S3: training to taken and un-training, on one way. -/
theorem test_training :
    let c := (launchOf 8 1 2 0 32).config
    let two := repeatUpdate c true 12 28 2 (freshBtb (launchOf 8 1 2 0 32))
    let four := repeatUpdate c true 12 28 2 two
    predictTaken c two 12 = true ∧ getTarget c two 12 = 28 ∧ firstEntry c four 12 = ([3], 0, 28) ∧
      firstEntry c (btbUpdate c four false 12 16) 12 = ([2], 0, 28) ∧
      predictTaken c (repeatUpdate c false 12 16 2 four) 12 = false := by decide

/-- V-BP-R1: a taken update with a new target resets the entry. -/
theorem test_new_target :
    let c := (launchOf 8 1 2 0 32).config
    let btb := btbUpdate c (repeatUpdate c true 12 28 4 (freshBtb (launchOf 8 1 2 0 32))) true 12 40
    firstEntry c btb 12 = ([1], 0, 40) ∧ predictTaken c btb 12 = false ∧
      predictTaken c (btbUpdate c btb true 12 40) 12 = true := by decide

/-- V-BP-I1: an allocation inherits the victim's entry. -/
theorem test_inherited :
    let c := (launchOf 2 1 2 0 32).config
    let btb := btbUpdate c (repeatUpdate c true 8 100 3 (freshBtb (launchOf 2 1 2 0 32))) false 16 20
    predictTaken c btb 16 = true ∧ getTarget c btb 16 = 100 ∧ predictTaken c btb 8 = false := by decide

/-- V-BP-LRU1: replacement. -/
theorem test_replacement :
    let c := (launchOf 8 4 2 0 32).config
    let full := [0, 8, 16, 24].foldl (fun b (pc : Word) => btbUpdate c b true pc (pc + 100)) (freshBtb (launchOf 8 4 2 0 32))
    let touched := tagRead c full 0
    let evicted := btbUpdate c touched false 32 36
    (btbSet touched 0).lru = [1, 2, 3, 0] ∧ (btbSet evicted 0).lru = [2, 3, 0, 1] ∧
      (btbSet evicted 0).tags = [some 0, some 16, some 8, some 12] := by decide

/-- S6, pairs 1 to 3: the two-level predictor counts before it shifts. -/
theorem test_two_level :
    let c := (launchOf 8 1 2 2 32).config
    let pair := fun b => btbUpdate c (btbUpdate c b true 12 28) false 12 16
    let one := pair (freshBtb (launchOf 8 1 2 2 32))
    let three := pair (pair one)
    firstEntry c one 12 = ([0, 1, 1, 1], 0, 28) ∧ firstEntry c three 12 = ([1, 0, 2, 1], 2, 28) ∧
      predictTaken c three 12 = true ∧ predictTaken c (btbUpdate c three true 12 28) 12 = false := by decide

/-- V-BP-X1 and V-BP-X2: set and tag. -/
theorem test_set_tag :
    let c := (launchOf 128 4 2 0 32).config
    let c16 := (launchOf 128 4 2 0 16).config
    setOf c 0x400010 = 16 ∧ tagOf c 0x400010 = 0x20000 ∧ setOf c 0x400014 = 20 ∧ setOf c 0x400013 = 19 ∧
      tagOf c16 0x400010 = 0 ∧ tagOf c16 0x410010 = 0 := by decide

/-- V-BP-C1: the source's trick and the clamp, B = 1, 2 and the ends of B = 32. -/
theorem test_saturating :
    [0, 1].map (fun v => (satTrick 1 v true, satTrick 1 v false)) = [(1, 0), (1, 0)] ∧
      [0, 1, 2, 3].map (fun v => (satTrick 2 v true, satTrick 2 v false)) = [(1, 0), (2, 0), (3, 1), (3, 2)] ∧
      satTrick 32 0xFFFFFFFF true = 0xFFFFFFFF ∧ satTrick 32 0 false = 0 := by decide

/-! ### Ports and scoreboard (95_test_vectors 4, 5) -/

/-- V-PORT-1, V-PORT-3, V-PORT-4. -/
theorem test_ports :
    portWrite 3 'a' [] = some [⟨3, 'a'⟩] ∧ portRead 3 [Entry.mk 3 'a'] = none ∧
      portRead 4 [Entry.mk 3 'a'] = some ('a', []) ∧ portWrite 3 'b' [Entry.mk 3 'a'] = none ∧
      portFlushed 5 [Entry.mk 3 'a', Entry.mk 5 'b'] = ['a'] ∧ portKept 5 [Entry.mk 3 'a', Entry.mk 5 'b'] = [⟨5, 'b'⟩] := by
  decide

/-- V-SB-2 to V-SB-5. -/
theorem test_scoreboard :
    let c := Launch.default.config
    let full : Vector Bool 33 := Vector.replicate 33 true
    sbCheck c (sbSet c full false (some 5)) (some 5) = false ∧
      sbCheck c (sbSet c (sbSet c full false (some 5)) true (some 5)) (some 5) = true ∧
      sbCheck c (sbSet c full false (some 0)) (some 0) = true ∧
      sbCheck { c with r0Tracked := true } (sbSet { c with r0Tracked := true } full false (some 0)) (some 0) = false ∧
      sbCheck c full none = true ∧ readSource State.reset.x 7 none = 0 := by decide

/-! ### Memory (20_memory R63, R64; V-STORE-1) -/

theorem test_memory_order :
    let c := Launch.default.config
    let m := memStored c [] 0x200 4 0x11223344
    m = [(0x200, 0x44), (0x201, 0x33), (0x202, 0x22), (0x203, 0x11)] ∧ memValue c m 0x200 1 = 0x44 ∧
      memValue c m 0x202 2 = 0x1122 ∧ memValue { c with endian := .big } m 0x200 4 = 0x44332211 ∧
      memStored c [] 0xFFFFFFFF 2 0x0102 = [(0, 0x01), (0xFFFFFFFF, 0x02)] := by decide

theorem test_memory_misaligned :
    let c := Launch.default.config
    memRead c [] 0x102 4 = .error (.misaligned 0x102 4) ∧
      memRead { c with misalignedPolicy := .bytewise } [] 0x102 4 = .ok 0 := by decide

/-! ### Instructions, one stage at a time -/

/-- A small machine in cycle 10: a BTB of one entry, an empty pipeline. -/
def base : State := { State.ofLaunch (launchOf 1 1 2 0 32) with cycle := 10, lastWritebackCycle := 9 }

/-- The machine with a packet in Decode's buffer, Decode acting. -/
def atDecode (raw : Word) : State :=
  { base with acting := .decode, idBuf := some { raw := raw, pc := 0x400000, predictedTaken := false, predictedTarget := 0x400004 } }

/-- A record of cycle 9, predicted not taken. -/
def entry (b : Body) (raw : Word) (v1 v2 : DWord) (o : Option ExecOut) : Entry InstrRec :=
  { cycleWritten := 9
    value := { body := b, raw := raw, pc := 0x400000, predictedTaken := false, predictedTarget := 0x400004, vSrc1 := v1, vSrc2 := v2, result := o } }

/-- The machine with a record in P3, Execute acting. -/
def atExecute (i : Instr) (v1 v2 : DWord) : State :=
  { base with acting := .execute, decode2Execute := [entry (.live i) 0 v1 v2 none] }

/-- The machine with an executed record in P5, Memory acting. -/
def atMemory (i : Instr) (v2 : DWord) (o : ExecOut) : State :=
  { base with acting := .memory, execute2Memory := [entry (.live i) 0 0 v2 (some o)] }

/-- The machine with a record in P7, Writeback acting, the checker detached. -/
def atWriteback (i : Instr) (v2 : DWord) (o : ExecOut) : State :=
  { base with
    acting := .writeback
    config := { base.config with checker := .detached }
    sb := sbSet base.config base.sb false i.dst
    memory2Writeback := [entry (.live i) 0 0 v2 (some o)] }

/-- The state an outcome answers, `s` where it answers none. -/
def nextOr (s : State) : Result → State
  | .next t => t
  | .fault _ => s
  | .refused _ => s

def isNext : Result → Bool
  | .next _ => true
  | .fault _ => false
  | .refused _ => false

theorem next_of_isNext {s : State} {r : Result} (h : isNext r = true) : r = .next (nextOr s r) := by
  cases r with
  | next t => rfl
  | fault e => cases h
  | refused e => cases h

/-- What Execute forwards for an instruction. -/
def executed (i : Instr) (v1 v2 : DWord) : Option ExecOut :=
  (nextOr base (exec i (atExecute i v1 v2))).execute2Memory.head?.bind fun e => e.value.result

/-- An outcome without the fields the fixture table leaves open. -/
def stated (o : Option ExecOut) : Option (Word × Bool) := o.map fun o => (o.newPc, o.jumpExecuted)

/-- The result Execute forwards. -/
def result (o : Option ExecOut) : Option DWord := o.map fun o => o.vDst

/-- Source values of programs P1 and P2 (95_test_vectors 8): 8 + 5 = 13; 3 + (-1) = 2; wrap by hand. -/
theorem test_addu_execute :
    result (executed (.addu 10 8 9) 5 8) = some 13 ∧ result (executed (.addu 10 8 9) 0xFFFFFFFF 2) = some 1 ∧
      stated (executed (.addu 10 8 9) 5 8) = some (0x400004, false) := by decide

theorem test_addiu_execute :
    result (executed (.addiu 8 8 0xFFFF) 3 0) = some 2 ∧ result (executed (.addiu 8 8 0xFFFF) 0 0) = some 0xFFFFFFFF := by
  decide

/-- 95_test_vectors 1.3 by hand: bits shifted out of 32 are lost. -/
theorem test_sll_execute : result (executed (.sll 10 8 4) 0xF0000001 0) = some 0x10 := by decide

/-- The branch of program P2 (at 0x400010 it goes back 8 bytes), here at 0x400000: 0x400004 - 12. -/
theorem test_bne_execute :
    stated (executed (.bne 8 0 0xFFFD) 2 0) = some (0x3FFFF8, true) ∧
      stated (executed (.bne 8 0 0xFFFD) 0 0) = some (0x400004, false) := by decide

theorem test_beq_execute :
    stated (executed (.beq 8 9 4) 7 7) = some (0x400014, true) ∧ stated (executed (.beq 8 9 4) 7 8) = some (0x400004, false) := by
  decide

/-- V-JUMP-1, V-JUMP-3 and program P4. -/
theorem test_jumps_execute :
    stated (executed (.j 0x100002) 0 0) = some (0x400008, true) ∧ stated (executed (.jal 0x100004) 0 0) = some (0x400010, true) ∧
      result (executed (.jal 0x100004) 0 0) = some 0x400004 ∧ stated (executed (.jr 31) 0x400004 0) = some (0x400004, true) := by
  decide

theorem test_addresses_execute :
    (executed (.lw 9 0 0x200) 0 0).map (fun o => o.memAddr) = some 0x200 ∧
      (executed (.sw 10 8 0xFFFC) 0x104 7).map (fun o => o.memAddr) = some 0x100 := by decide

/-- The class rows use the launch's EXECUTE (30_encoding R84), whatever it is. -/
theorem test_classes_execute :
    stated (executed (.other none none none 7) 1 2) =
        some ((Config.execute 0 (.other none none none 7) 0x400000 1 2).newPc, (Config.execute 0 (.other none none none 7) 0x400000 1 2).jumpExecuted) ∧
      (executed (.load none none none 4 7) 1 2).map (fun o => o.memAddr) =
        some (Config.execute 0 (.load none none none 4 7) 0x400000 1 2).memAddr := ⟨rfl, rfl⟩

/-- 43_stages R195, R196: `addu t2, t0, t1` issues and clears its destination's bit; with t1 in flight it holds. -/
theorem test_addu_decode :
    let issued := nextOr base (exec (.addu 10 8 9) (atDecode 0x01095021))
    let held := nextOr base (exec (.addu 10 8 9) { atDecode 0x01095021 with sb := base.sb.set 9 false })
    issued.sb[10] = false ∧ issued.idBuf = none ∧ issued.idStatus = some (.issued 0x400000) ∧ issued.decode2FetchStall = [] ∧
      held.idStatus = some (.hazard 0x400000) ∧ held.decode2FetchStall = [⟨10, true⟩] ∧ held.decode2Execute = [] := by decide

/-- V-STORE-1: `sw` of 0x55 writes 55 00 00 00; its neighbour byte stays. -/
theorem test_sw_memory :
    let t := nextOr base (exec (.sw 8 0 0x200) (atMemory (.sw 8 0 0x200) 0x55 ⟨0x400004, false, 0, 0x200⟩))
    t.mem = [(0x200, 0x55)] ∧ t.memory2FetchFlush = [] ∧ t.memStatus = some (.memDone 0x400000) := by decide

/-- V-LOAD-1: `lw` of 0x55. -/
theorem test_lw_memory :
    let s := { atMemory (.lw 9 0 0x200) 0 ⟨0x400004, false, 0, 0x200⟩ with mem := [(0x200, 0x55)] }
    ((nextOr base (exec (.lw 9 0 0x200) s)).memory2Writeback.head?.bind fun e => result e.value.result) = some 0x55 := by decide

/-- V-JUMP-1: an untrained `j` is mispredicted: flushes, target, and the record still goes on (43_stages R207, R209). -/
theorem test_j_memory :
    let t := nextOr base (exec (.j 0x100002) (atMemory (.j 0x100002) 0 ⟨0x400008, true, 0, 0⟩))
    t.memory2FetchFlush = [⟨10, true⟩] ∧ t.memory2MemoryFlush = [⟨10, true⟩] ∧ t.memory2FetchTarget = [⟨10, 0x400008⟩] ∧
      t.memory2Writeback.length = 1 ∧ t.memStatus = some (.mispredicted 0x400000 0x400008) := by decide

/-- V-F3, V-F5: a misaligned access under fault ends the run and leaves memory. -/
theorem test_misaligned_memory :
    (nextOr base (exec (.lw 9 8 0) (atMemory (.lw 9 8 0) 0 ⟨0x400004, false, 0, 0x102⟩))).runStatus = .faulted (.misaligned 0x102 4) ∧
      (nextOr base (exec (.sw 8 0 0x101) (atMemory (.sw 8 0 0x101) 7 ⟨0x400004, false, 0, 0x101⟩))).mem = [] := by decide

/-- V-JUMP-3: the record of `jal`; V-SB-6: the write and the validation. -/
theorem test_jal_writeback :
    let t := nextOr base (exec (.jal 0x100004) (atWriteback (.jal 0x100004) 0 ⟨0x400010, true, 0x400004, 0⟩))
    t.x[31] = 0x400004 ∧ t.sb[31] = true ∧ t.executedInstrs = 1 ∧ t.lastWritebackCycle = 10 ∧
      t.retireLog = [{ pc := 0x400000, raw := 0, newPc := 0x400010, dst := some 31, vDst := some 0x400004, mem := .none }] := by
  decide

/-- 44_instruction_classes R242: the record of a load; 10_state R22: HI/LO takes all 64 bits. -/
theorem test_load_writeback :
    let t := nextOr base (exec (.load none none (some 32) 2 0) (atWriteback (.load none none (some 32) 2 0) 0 ⟨0x400004, false, 0x123400005678, 0x200⟩))
    t.hilo = 0x123400005678 ∧ t.x = base.x ∧ t.retireLog.head?.map (fun r => r.mem) = some (.load 0x200 2) := by decide

/-- 45_driver R269: a REF that is not the canonical one gives records of its own from START_PC, RF_INIT and MEM_INIT, and
keeps them for its next step. -/
theorem test_external_ref :
    let c := { base.config with refModel := .external 3 }
    let start : RefStart := { startPc := 0x400000, rfInit := Vector.replicate 32 0, hiloInit := 0, memInit := [(0x200, 0x55)] }
    let r := { base.ref with memf := [(0x200, 0x55)] }
    refStep c r = some (Config.refRecord 3 start 0, { r with steps := 1 }) ∧
      refStep c { r with steps := 1 } = some (Config.refRecord 3 start 1, { r with steps := 2 }) := ⟨rfl, rfl⟩

/-- A meaning called where no instruction is (log 20). -/
theorem test_no_instruction :
    exec (.j 0) base = .fault .noInstructionAtFetch ∧ exec (.j 0) { base with acting := .memory } = .fault (.noInstructionAtStage .memory) :=
  ⟨rfl, rfl⟩

/-! ### Steps -/

/-- What Decode shows after the next step on a table word placed right after reset. -/
def issuedAfterReset (nbits w : Nat) : Option StageStatus := (nextOr State.reset (step (State.reset.withFetchWord nbits w))).idStatus

/-- Every row of the opcode table runs as the first instruction after reset. -/
theorem test_rows_run :
    [(8, 0), (8, 1), (8, 2), (8, 4), (32, 0x21), (32, 0), (32, 0x08), (32, 0x24000000), (32, 0x10000000), (32, 0x14000000),
      (32, 0x08000000), (32, 0x0C000000), (32, 0x8C000000), (32, 0xAC000000)].all
        (fun p => (decodeTableWord p.1 p.2).isSome && issuedAfterReset p.1 p.2 == some (.issued 0x400000)) = true := by decide

/-- 70_reset R302: the first cycle fetches at START_PC and every other stage is idle. -/
theorem test_first_cycle :
    let t := nextOr State.reset (step State.reset)
    t.ifStatus = some (.fetched 0x400000) ∧ t.idStatus = some .idle ∧ t.wbStatus = some .idle ∧ t.cycle = 1 ∧ t.pc = 0x400004 := by
  decide

/-- V-F1: an invalid word at Decode, and the poisoned record at Memory. -/
theorem test_invalid_word :
    let early := { atDecode 0xFFFFFFFF with config := { base.config with invalidPolicy := .faultAtDecode } }
    let late := { base with execute2Memory := [entry (.poisoned .invalidInstruction) 0xFFFFFFFF 0 0 none] }
    (nextOr base (decodeStage early)).runStatus = .faulted (.invalidInstruction 0x400000) ∧
      (nextOr base (decodeStage (atDecode 0xFFFFFFFF))).idStatus = some (.issued 0x400000) ∧
      (nextOr base (memoryStage late)).runStatus = .faulted (.invalidInstruction 0x400000) := by decide

/-- 95_test_vectors 6.4: a flush discards P3 and P5, validates their destinations, and Fetch redirects. -/
theorem test_flush :
    let flush : Port Bool := [⟨9, true⟩]
    let s := { base with
      memory2FetchFlush := flush, memory2DecodeFlush := flush, memory2ExecuteFlush := flush, memory2MemoryFlush := flush
      memory2FetchTarget := [⟨9, 0x400008⟩]
      sb := (base.sb.set 8 false).set 9 false
      decode2Execute := [entry (.live (.addiu 8 0 1)) 0 0 0 none]
      execute2Memory := [entry (.live (.addiu 9 0 1)) 0 0 0 (some ⟨0, false, 0, 0⟩)] }
    let t := nextOr base (step s)
    t.ifStatus = some (.fetched 0x400008) ∧ t.idStatus = some .flushed ∧ t.exStatus = some .flushed ∧
      t.memStatus = some .flushed ∧ t.sb = base.sb ∧ t.decode2Execute = [] ∧ t.execute2Memory = [] ∧ t.fetch2Decode.length = 1 := by
  decide

/-- 45_driver R263: DEADLOCK is raised after the cycle is counted. -/
theorem test_deadlock :
    let s := { base with config := { base.config with watchdogLimit := 2 } }
    (nextOr base (step s)).runStatus = .faulted (.deadlock 11) ∧ (nextOr base (step s)).cycle = 11 := by decide

/-! ### Witnesses: each statement's hypotheses are met together -/

/-- The configuration and BTB of the small machine. -/
def tinyConfig : CoreConfig := (launchOf 1 1 2 0 32).config

theorem tiny_btbOk : tinyConfig.legal = true ∧ BtbOk tinyConfig (freshBtb (launchOf 1 1 2 0 32)) := by
  unfold BtbOk BtbSet.ok BpEntry.ok
  decide

theorem base_btbInv : BtbInv base := tiny_btbOk

theorem witness_DecodeEncodeAgree :
    (Instr.load (some 32) none (some 0) 4 0xFFFFFFFF).wellFormed = true ∧
      decode (encode (.load (some 32) none (some 0) 4 0xFFFFFFFF)) = some (.load (some 32) none (some 0) 4 0xFFFFFFFF) := by decide

theorem witness_FixtureWordHasOneReading : decodeFixture 0x03E00008 = some (.jr 31) := by decide

theorem witness_DescriptorDecidesInstruction :
    classify (descriptor true false false 4 (some 32)) = some (.load (some 32) none none 4 0) := by decide

theorem witness_PortWriteVisibleNextCycle : portWrite 3 'a' [] = some [⟨3, 'a'⟩] := by decide

theorem witness_PortFlushKeepsSameCycleEntry :
    (∀ e ∈ [Entry.mk 3 'a'], e.cycleWritten < 5) ∧ portWrite 5 'b' [Entry.mk 3 'a'] = some [⟨3, 'a'⟩, ⟨5, 'b'⟩] := by decide

/-- Both clauses of every port: a free port, and one written in this cycle. -/
theorem witness_SecondPortWriteIsFatal :
    noWriteYet base.cycle base.fetch2Decode ∧ ¬ noWriteYet 10 [Entry.mk 10 true] := by unfold noWriteYet; decide

theorem witness_ByteOrderAndInverse :
    tinyConfig.endian = .little ∧ ({ tinyConfig with endian := .big } : CoreConfig).endian = .big ∧
      Memory.wf [(0xFFFFFFFF, 1)] = true ∧ legalSize 4 = true := by decide

theorem witness_MemWriteStoresExactlyItsBytes :
    Memory.wf [(0, 1), (0xFFFFFFFF, 1)] = true ∧ legalSize 2 = true ∧
      memWrite tinyConfig [] 0x101 2 7 = .error (.misaligned 0x101 2) := by decide

theorem witness_MisalignedAccessFaults :
    tinyConfig.misalignedPolicy = .fault ∧ (0xFFFFFFFF : Word).toNat % 4 ≠ 0 ∧ (0xFFFFFFFC : Word).toNat % 4 = 0 := by decide

theorem witness_ScoreboardOperations :
    tracked base.config 32 = true ∧ tracked base.config 0 = false ∧ (0 : RegIdx) ≠ 32 := by decide

theorem witness_LegalConfigurations :
    (construct (launchOf 1 1 1 16 1)).runStatus = .running ∧
      (construct (launchOf 3 1 1 16 1)).runStatus = .faulted (.configInvalid 3) := by decide

theorem witness_SaturatingTrickIsClamp : 1 ≤ tinyConfig.predictionBits ∧ 3 ≤ tinyConfig.maxState := by decide

theorem witness_UpdateTrainsOneEntry :
    tinyConfig.legal = true ∧ BtbOk tinyConfig (freshBtb (launchOf 1 1 2 0 32)) ∧
      (btbEntry (btbSet (freshBtb (launchOf 1 1 2 0 32)) (setOf tinyConfig 12)) (writeWay tinyConfig (freshBtb (launchOf 1 1 2 0 32)) 12)).target ≠ 28 :=
  ⟨tiny_btbOk.1, tiny_btbOk.2, by decide⟩

/-- A miss in the fresh BTB; a hit after one update. -/
theorem witness_ReplacementIsLeastRecentlyUsed :
    let hit := btbUpdate tinyConfig (freshBtb (launchOf 1 1 2 0 32)) true 12 28
    tagHit tinyConfig (freshBtb (launchOf 1 1 2 0 32)) 12 = none ∧ tagHit tinyConfig hit 12 = some 0 ∧ BtbOk tinyConfig hit := by
  unfold BtbOk BtbSet.ok BpEntry.ok
  decide

theorem witness_FreshTargetPredictsNotTaken :
    tinyConfig.legal = true ∧ BtbOk tinyConfig (freshBtb (launchOf 1 1 2 0 32)) ∧
      (btbEntry (btbSet (freshBtb (launchOf 1 1 2 0 32)) (setOf tinyConfig 12)) (writeWay tinyConfig (freshBtb (launchOf 1 1 2 0 32)) 12)).target ≠ 28 :=
  witness_UpdateTrainsOneEntry

theorem witness_RepeatedOutcomeSaturates :
    tinyConfig.legal = true ∧ BtbOk tinyConfig (freshBtb (launchOf 1 1 2 0 32)) ∧
      tinyConfig.predictionLevel + max tinyConfig.meanState 2 ≤ 2 := ⟨tiny_btbOk.1, tiny_btbOk.2, by decide⟩

theorem witness_StalledFetchDoesNothing : portRaised 10 [Entry.mk 9 true] = true := by decide

/-- The clause of a fetched word, and that of a misaligned PC. -/
theorem witness_FetchSendsWordAtPc :
    base.runStatus = .running ∧ BtbInv base ∧ base.decode2FetchStall = [] ∧ base.memory2FetchFlush = [] ∧
      memRead base.config base.mem base.pc 4 = .ok 0 ∧ noWriteYet base.cycle base.fetch2Decode ∧
      base.config.misalignedPolicy = .fault ∧ ({ base with pc := 0xFFFFFFFF } : State).pc.toNat % 4 ≠ 0 :=
  ⟨rfl, base_btbInv, rfl, rfl, by decide, by unfold noWriteYet; decide, rfl, by decide⟩

/-- A flush with its target, and one without. -/
theorem witness_FlushRedirectsFetch :
    let s := { base with memory2FetchFlush := [⟨9, true⟩] }
    s.runStatus = .running ∧ s.decode2FetchStall = [] ∧ (9 : Nat) < s.cycle ∧
      portRead s.cycle [Entry.mk 9 (0x400008 : Word)] = some (0x400008, []) ∧ portRead s.cycle s.memory2FetchTarget = none := by
  decide

/-- The machine with a packet in P1, as Fetch left it in the last cycle. -/
def atInput (raw : Word) : State :=
  { base with fetch2Decode := [⟨9, { raw := raw, pc := 0x400000, predictedTaken := false, predictedTarget := 0x400004 }⟩] }

/-- A rejected word fresh from P1, a decoded one, and a buffered packet. -/
theorem witness_DecodeRunsOrRejectsWord :
    let s := atInput 0xFFFFFFFF
    s.runStatus = .running ∧ s.takePacket.idBuf.map IfIdData.raw = some 0xFFFFFFFF ∧
      (atDecode 0).takePacket.idBuf.map IfIdData.raw = some 0 ∧ s.execute2DecodeStall = [] ∧ s.memory2DecodeFlush = [] ∧
      noWriteYet s.cycle s.decode2Execute ∧ decodeWord s.config.isa 0xFFFFFFFF 0x400000 = .invalid ∧
      decodeWord s.config.isa 0 0x400000 = .instr (.sll 0 0 0) := by unfold noWriteYet; decide

theorem witness_DecodeIssuesWhenReady :
    let s := atDecode 0x01095021
    s.acting = .decode ∧ s.runStatus = .running ∧ s.idBuf ≠ none ∧ sbCheck s.config s.sb (Instr.addu 10 8 9).src1 = true ∧
      sbCheck s.config s.sb (Instr.addu 10 8 9).src2 = true ∧ sbCheck s.config s.sb (Instr.addu 10 8 9).dst = true ∧
      noWriteYet s.cycle s.decode2Execute := by unfold noWriteYet; decide

theorem witness_DecodeHoldsOnHazard :
    let s := { atDecode 0x01095021 with sb := base.sb.set 10 false }
    s.acting = .decode ∧ s.runStatus = .running ∧ s.idBuf ≠ none ∧ sbCheck s.config s.sb (Instr.addu 10 8 9).dst = false ∧
      noWriteYet s.cycle s.decode2FetchStall := by unfold noWriteYet; decide

/-- For the four statements about fixture rows at Execute. -/
theorem witness_ExecuteRows :
    let s := atExecute (.addu 10 8 9) 5 8
    s.acting = .execute ∧ s.runStatus = .running ∧ (portRead s.cycle s.decode2Execute).isSome = true ∧
      noWriteYet s.cycle s.execute2Memory := by unfold noWriteYet; decide

theorem witness_ExecuteClassRows :
    let s := { atExecute (.other none none none 7) 5 8 with config := { base.config with isa := .external 3 } }
    s.acting = .execute ∧ s.runStatus = .running ∧ s.config.isa = .external 3 ∧
      (portRead s.cycle s.decode2Execute).isSome = true ∧ noWriteYet s.cycle s.execute2Memory := by unfold noWriteYet; decide

theorem witness_FlushDiscardsYoungerWork :
    let flush : Port Bool := [⟨9, true⟩]
    let s := { base with memory2DecodeFlush := flush, memory2ExecuteFlush := flush, memory2MemoryFlush := flush }
    (9 : Nat) < s.cycle ∧ s.execute2DecodeStall = [] ∧ s.memory2ExecuteStall = [] ∧ s.writeback2MemoryStall = [] := by decide

/-- For `MemoryPassesOtherAndJump`, on a branch. -/
theorem witness_MemoryPassesOtherAndJump :
    let s := atMemory (.beq 8 9 4) 0 ⟨0x400014, true, 0, 0⟩
    s.acting = .memory ∧ s.runStatus = .running ∧ (Instr.beq 8 9 4).isLoad = false ∧ (Instr.beq 8 9 4).isStore = false ∧
      (portRead s.cycle s.execute2Memory).map (fun p => p.1.result) = some (some ⟨0x400014, true, 0, 0⟩) ∧ memoryPortsFree s := by
  unfold memoryPortsFree noWriteYet; decide

theorem witness_MemoryPerformsLoad :
    let s := atMemory (.lw 9 0 0x200) 0 ⟨0x400004, false, 0, 0x200⟩
    s.acting = .memory ∧ s.runStatus = .running ∧ (Instr.lw 9 0 0x200).isLoad = true ∧
      (portRead s.cycle s.execute2Memory).map (fun p => p.1.result) = some (some ⟨0x400004, false, 0, 0x200⟩) ∧
      memoryPortsFree s ∧ memRead s.config s.mem 0x200 4 = .ok 0 := by unfold memoryPortsFree noWriteYet; decide

theorem witness_MemoryPerformsStore :
    let s := atMemory (.sw 8 0 0x200) 0x55 ⟨0x400004, false, 0, 0x200⟩
    s.acting = .memory ∧ s.runStatus = .running ∧ (Instr.sw 8 0 0x200).isStore = true ∧
      (portRead s.cycle s.execute2Memory).map (fun p => p.1.result) = some (some ⟨0x400004, false, 0, 0x200⟩) ∧
      memoryPortsFree s ∧ memWrite s.config s.mem 0x200 4 0x55 = .ok [(0x200, 0x55)] := by
  unfold memoryPortsFree noWriteYet; decide

theorem witness_MisalignedDataAccessEndsRun :
    let s := atMemory (.sw 8 0 0x101) 7 ⟨0x400004, false, 0, 0x101⟩
    s.acting = .memory ∧ s.runStatus = .running ∧ (Instr.sw 8 0 0x101).isStore = true ∧ memoryPortsFree s ∧
      (portRead s.cycle s.execute2Memory).map (fun p => p.1.result) = some (some ⟨0x400004, false, 0, 0x101⟩) ∧
      s.config.misalignedPolicy = .fault ∧ (0x101 : Word).toNat % (Instr.sw 8 0 0x101).memSize ≠ 0 := by
  unfold memoryPortsFree noWriteYet; decide

/-- A poisoned record at Execute, and one of each code at Memory. -/
theorem witness_PoisonedRecordFaultsAtMemory :
    let early := { base with decode2Execute := [entry (.poisoned .invalidInstruction) 0 0 0 none] }
    let late := fun code => { base with execute2Memory := [entry (.poisoned code) 0 0 0 none] }
    early.runStatus = .running ∧ early.memory2ExecuteStall = [] ∧ early.memory2ExecuteFlush = [] ∧
      (portRead early.cycle early.decode2Execute).map (fun p => p.1.body) = some (.poisoned .invalidInstruction) ∧
      noWriteYet early.cycle early.execute2Memory ∧ base.writeback2MemoryStall = [] ∧ base.memory2MemoryFlush = [] ∧
      (portRead 10 (late .invalidInstruction).execute2Memory).map (fun p => p.1.body) = some (.poisoned .invalidInstruction) ∧
      (portRead 10 (late .refusedInstruction).execute2Memory).map (fun p => p.1.body) = some (.poisoned .refusedInstruction) := by
  unfold noWriteYet; decide

/-- The record of the `nop` at START_PC, its own REF record. -/
def nopRecord : RetireRecord := { pc := 0x400000, raw := 0, newPc := 0x400004, dst := some 0, vDst := none, mem := .none }

/-- A `nop` at Writeback with the checker attached: REF's record is the CORE's. Detached: `atWriteback`. -/
theorem witness_WritebackRetires :
    let s := { atWriteback (.sll 0 0 0) 0 ⟨0x400004, false, 0, 0⟩ with config := base.config }
    s.acting = .writeback ∧ s.runStatus = .running ∧ s.config.checker = .attached ∧
      (portRead s.cycle s.memory2Writeback).map (fun p => p.1.result) = some (some ⟨0x400004, false, 0, 0⟩) ∧
      (refStep s.config s.ref).map Prod.fst = some nopRecord ∧
      retireRecord (.live (.sll 0 0 0)) 0 0x400000 0 ⟨0x400004, false, 0, 0⟩ = nopRecord ∧
      (atWriteback (.sll 0 0 0) 0 ⟨0x400004, false, 0, 0⟩).config.checker = .detached := by decide

theorem witness_CheckerMismatchEndsRun :
    let s := { atWriteback (.j 0x100002) 0 ⟨0x400008, true, 0, 0⟩ with config := base.config }
    s.acting = .writeback ∧ s.runStatus = .running ∧ s.config.checker = .attached ∧
      (portRead s.cycle s.memory2Writeback).isSome = true ∧
      (refStep s.config s.ref).map Prod.fst ≠ some (retireRecord (.live (.j 0x100002)) 0 0x400000 0 ⟨0x400008, true, 0, 0⟩) := by decide

theorem witness_DecodeFrame : ∃ t, exec (.addu 10 8 9) (atDecode 0x01095021) = .next t := ⟨_, next_of_isNext (s := base) (by decide)⟩

theorem witness_ExecuteFrame : ∃ t, exec (.addu 10 8 9) (atExecute (.addu 10 8 9) 5 8) = .next t := ⟨_, next_of_isNext (s := base) (by decide)⟩

/-- A store and its own address, and a jump. -/
theorem witness_MemoryFrame :
    (∃ t, exec (.sw 8 0 0x200) (atMemory (.sw 8 0 0x200) 7 ⟨0x400004, false, 0, 0x200⟩) = .next t) ∧
      (∃ t, exec (.j 0) (atMemory (.j 0) 0 ⟨0x400000, true, 0, 0⟩) = .next t) := 
  ⟨⟨_, next_of_isNext (s := base) (by decide)⟩, ⟨_, next_of_isNext (s := base) (by decide)⟩⟩

theorem witness_WritebackFrame :
    ∃ t, exec (.jal 0x100004) (atWriteback (.jal 0x100004) 0 ⟨0x400010, true, 0x400004, 0⟩) = .next t := ⟨_, next_of_isNext (s := base) (by decide)⟩

/-- The first clause, in the cycle after a fetch; the stages' clauses are met by the states above. -/
theorem witness_StepRunsDecodedInstruction :
    let s := { base with fetch2Decode := [⟨9, { raw := 0x24080005, pc := 0x3FFFFC, predictedTaken := false, predictedTarget := 0x400000 }⟩] }
    let s1 := nextOr base (fetchStage s.beginCycle)
    s.runStatus = .running ∧ s.executedInstrs < s.config.instrsToRun ∧ isNext (fetchStage s.beginCycle) = true ∧
      s1.runStatus = .running ∧ s1.execute2DecodeStall = [] ∧ s1.memory2DecodeFlush = [] ∧
      s1.takePacket.idBuf.map (fun p => decodeWord s1.config.isa p.raw p.pc) = some (.instr (.addiu 8 0 5)) := by decide

theorem witness_StageRunsRecord :
    let s := { atWriteback (.jal 0x100004) 0 ⟨0x400010, true, 0x400004, 0⟩ with
      decode2Execute := [entry (.live (.j 0)) 0 0 0 none]
      execute2Memory := [entry (.live (.j 0)) 0 0 0 none] }
    s.memory2ExecuteStall = [] ∧ s.memory2ExecuteFlush = [] ∧ s.writeback2MemoryStall = [] ∧ s.memory2MemoryFlush = [] ∧
      (portRead s.cycle s.decode2Execute).map (fun p => p.1.body) = some (.live (.j 0)) ∧
      (portRead s.cycle s.execute2Memory).map (fun p => p.1.body) = some (.live (.j 0)) ∧
      (portRead s.cycle s.memory2Writeback).map (fun p => p.1.body) = some (.live (.jal 0x100004)) := by decide

/-- Decode's input: a buffered packet; a ready one, one of this cycle and none. -/
theorem witness_DecodeInput :
    (atDecode 0).idBuf ≠ none ∧ (atInput 0).idBuf = none ∧ (atInput 0).fetch2Decode.head?.map Entry.cycleWritten = some 9 ∧
      (9 : Nat) < (atInput 0).cycle ∧ ¬ 9 < ({ atInput 0 with cycle := 9 } : State).cycle ∧ base.fetch2Decode = [] := by decide

/-- The stages find nothing: empty ports, and entries of this very cycle. -/
theorem witness_IdleStages :
    let fresh := { atInput 0 with
      cycle := 9
      decode2Execute := [entry (.live (.j 0)) 0 0 0 none]
      execute2Memory := [entry (.live (.j 0)) 0 0 0 none]
      memory2Writeback := [entry (.live (.j 0)) 0 0 0 none] }
    fresh.execute2DecodeStall = [] ∧ fresh.memory2DecodeFlush = [] ∧ fresh.idBuf = none ∧ fresh.memory2ExecuteStall = [] ∧
      fresh.memory2ExecuteFlush = [] ∧ fresh.writeback2MemoryStall = [] ∧ fresh.memory2MemoryFlush = [] ∧
      (∀ e ∈ fresh.fetch2Decode.head?, fresh.cycle ≤ e.cycleWritten) ∧
      (∀ e ∈ fresh.decode2Execute.head?, fresh.cycle ≤ e.cycleWritten) ∧
      (∀ e ∈ fresh.execute2Memory.head?, fresh.cycle ≤ e.cycleWritten) ∧
      (∀ e ∈ fresh.memory2Writeback.head?, fresh.cycle ≤ e.cycleWritten) ∧
      (∀ e ∈ base.memory2Writeback.head?, base.cycle ≤ e.cycleWritten) := by decide

theorem witness_TerminalStateStays : State.terminal { base with runStatus := .faulted (.deadlock 7) } := .inr ⟨_, rfl⟩

/-- A cycle without a fatal in which the last instruction of the budget retires. -/
theorem witness_CycleCountsAndEndsOnBudget :
    let s := { atWriteback (.jal 0x100004) 0 ⟨0x400010, true, 0x400004, 0⟩ with
      config := { base.config with checker := .detached, instrsToRun := 1 } }
    s.runStatus = .running ∧ s.executedInstrs < s.config.instrsToRun ∧ isNext (step s) = true ∧
      (nextOr base (step s)).runStatus = .done := by decide

/-- A fatal inside a cycle (a misaligned fetch), and the watchdog after one. -/
theorem witness_FatalLeavesCycleUncounted :
    let inside := { base with pc := 2 }
    let after := { base with config := { base.config with watchdogLimit := 2 } }
    inside.runStatus = .running ∧ isNext (step inside) = true ∧
      (nextOr base (step inside)).runStatus = .faulted (.misaligned 2 4) ∧ after.runStatus = .running ∧
      isNext (step after) = true ∧ (nextOr base (step after)).runStatus = .faulted (.deadlock 11) := by decide

/-- The launch of the small machine with a budget. -/
def tinyLaunch (budget : Nat) : Launch :=
  { launchOf 1 1 2 0 32 with config := { tinyConfig with instrsToRun := budget, checker := .detached } }

theorem witness_EmptyBudgetEndsAtOnce :
    (construct (tinyLaunch 0)).runStatus = .running ∧ (tinyLaunch 0).config.instrsToRun = 0 := by decide

theorem witness_EveryRunEnds :
    (tinyLaunch 1).config.instrsToRun * ((tinyLaunch 1).config.watchdogLimit - 1) + 1 ≤ 1000 := by decide

/-- One `nop` ends the run after five cycles (95_test_vectors 6.3). -/
theorem witness_IpcBelowOne :
    let t := nextOr base (Host.Core.run Sys2Proof.core 5 (construct (tinyLaunch 1)))
    isNext (Host.Core.run Sys2Proof.core 5 (construct (tinyLaunch 1))) = true ∧ t.runStatus = .done ∧ 0 < t.executedInstrs ∧
      0 < (tinyLaunch 1).config.instrsToRun ∧ t.cycle = 5 := by decide

theorem witness_LaunchIsClean : (tinyLaunch 1).config.legal = true := by decide

theorem witness_InvariantsHoldAtLaunch : (tinyLaunch 1).config.legal = true ∧ Memory.wf (tinyLaunch 1).memInit = true := by decide

/-- A state in which a store waits at Memory. -/
def storing : State := { atMemory (.sw 8 0 0x200) 0x55 ⟨0x400004, false, 0, 0x200⟩ with acting := .fetch }

theorem witness_StepKeepsMemoryCanonical : MemoryInv storing ∧ ∃ t, step storing = .next t :=
  ⟨⟨rfl, rfl⟩, _, next_of_isNext (s := base) (by decide)⟩

theorem witness_StepKeepsPredictorShape : BtbInv storing ∧ ∃ t, step storing = .next t :=
  ⟨base_btbInv, _, next_of_isNext (s := base) (by decide)⟩

theorem witness_StepKeepsScoreboardBalance : PipelineInv storing ∧ ∃ t, step storing = .next t := by
  refine ⟨.inr ⟨rfl, ?_, ?_, ?_⟩, _, next_of_isNext (s := base) (by decide)⟩
  · unfold controlPortsOk writtenLastCycle singleReady; decide
  · refine ⟨?_, ?_, ?_, ?_, ?_, ?_⟩
    · unfold singleReady; decide
    · unfold writtenLastCycle; decide
    · unfold writtenLastCycle; decide
    · unfold writtenLastCycle; decide
    · intro e he; exact .inr (by simp [storing, atMemory, entry] at he; simp [he])
    · intro e he; simp [storing, atMemory, base, State.ofLaunch] at he
  · unfold scoreboardBalanced; decide

theorem witness_StepKeepsCounters : CounterInv base ∧ ∃ t, step base = .next t :=
  ⟨.inr ⟨Nat.zero_le _, by decide, rfl, by decide, by decide⟩, _, next_of_isNext (s := base) (by decide)⟩

theorem witness_StepKeepsExternalRef :
    let s := { base with config := { base.config with refModel := .external 3 } }
    s.config.refModel = .external 3 ∧ ∃ t, step s = .next t := ⟨rfl, _, next_of_isNext (s := base) (by decide)⟩

theorem witness_StepKeepsPipelineFill : FillInv storing ∧ ∃ t, step storing = .next t :=
  ⟨.inr (by decide), _, next_of_isNext (s := base) (by decide)⟩

theorem witness_OnlyRetirementWritesRegisters :
    let s := { atWriteback (.jal 0x100004) 0 ⟨0x400010, true, 0x400004, 0⟩ with acting := .fetch }
    isNext (step s) = true ∧ readReg (nextOr base (step s)).x (nextOr base (step s)).hilo 31 ≠ readReg s.x s.hilo 31 := by decide

theorem witness_OnlyStoresChangeMemory :
    isNext (step storing) = true ∧ (nextOr base (step storing)).runStatus = .running ∧
      readByte (nextOr base (step storing)).mem 0x200 ≠ readByte storing.mem 0x200 := by decide

/-- The machine alone with an instruction word, which stands in both memories at its PC. -/
def alone (raw : Word) : State :=
  { atDecode raw with mem := memStored base.config [] 0x400000 4 raw, ref := { base.ref with memf := memStored base.config [] 0x400000 4 raw } }

/-- The packet `alone` holds. -/
def alonePacket (raw : Word) : IfIdData := { raw := raw, pc := 0x400000, predictedTaken := false, predictedTarget := 0x400004 }

theorem alone_ok (raw : Word) : aloneAtDecode (alonePacket raw) (alone raw) ∧ refCoherent (alonePacket raw) (alone raw) ∧
    (alone raw).config.refModel = .canonical :=
  ⟨⟨rfl, rfl, rfl, rfl, rfl, rfl, rfl, rfl, rfl, rfl, rfl⟩, ⟨rfl, rfl, rfl, rfl⟩, rfl⟩

/-- The clause of a REF record: `addiu t0, zero, 5`; `alone_ok` gives the other hypotheses. -/
theorem witness_InstructionAloneMatchesReference :
    memRead (alone 0x24080005).config (alone 0x24080005).mem 0x400000 4 = .ok 0x24080005 ∧
      decodeWord (alone 0x24080005).config.isa 0x24080005 0x400000 = .instr (.addiu 8 0 5) ∧
      (refStep (alone 0x24080005).config (alone 0x24080005).ref).isSome = true := by decide

/-- The clause of no REF record: `lw t1, 2(zero)`. -/
theorem witness_InstructionAloneMisaligned :
    memRead (alone 0x8C090002).config (alone 0x8C090002).mem 0x400000 4 = .ok 0x8C090002 ∧
      decodeWord (alone 0x8C090002).config.isa 0x8C090002 0x400000 = .instr (.lw 9 0 2) ∧
      (refStep (alone 0x8C090002).config (alone 0x8C090002).ref).isNone = true := by decide

end Sys2Proof.Tests
end

section
/-!
SUPPORT. Register reads after a register write, and the terminal states (10_state R21, R40; 42_scoreboard R164, R165).
-/

namespace Sys2Proof.Machine

/-! ### Registers -/

@[simp] theorem readReg_zero (x : Vector Word 32) (hilo : DWord) : readReg x hilo 0 = 0 := rfl

@[simp] theorem writeGpr_none (x : Vector Word 32) (v : DWord) : writeGpr x none v = x := rfl

@[simp] theorem writeGpr_zero (x : Vector Word 32) (v : DWord) : writeGpr x (some 0) v = x := rfl

@[simp] theorem writeHilo_none (hilo v : DWord) : writeHilo hilo none v = hilo := rfl

@[simp] theorem writeHilo_zero (hilo v : DWord) : writeHilo hilo (some 0) v = hilo := rfl

/-- A write to a register other than 0 is read back in the register's width. -/
theorem readReg_write_same (x : Vector Word 32) (hilo v : DWord) {r : RegIdx} (hr : r ≠ 0) :
    readReg (writeGpr x (some r) v) (writeHilo hilo (some r) v) r = if r.val = 32 then v else wideWord (lowWord v) := by
  have h0 : r.val ≠ 0 := fun h => hr (Fin.ext h)
  by_cases h32 : r.val = 32
  · simp [readReg, writeHilo, h32]
  · have hlt : r.val < 32 := by omega
    simp [readReg, writeGpr, h0, h32, hlt]

/-- A write leaves every register but its destination as it was. -/
theorem readReg_write_other (x : Vector Word 32) (hilo v : DWord) {d r : RegIdx} (hne : d ≠ r) :
    readReg (writeGpr x (some d) v) (writeHilo hilo (some d) v) r = readReg x hilo r := by
  have hval : d.val ≠ r.val := fun h => hne (Fin.ext h)
  unfold readReg
  split
  · rfl
  · split
    · next hr =>
      unfold writeGpr
      dsimp only
      split
      · rfl
      · split
        · rw [Vector.getElem_set_ne _ _ hval]
        · rfl
    · next hr =>
      have hd : d.val ≠ 32 := by omega
      simp [writeHilo, hd]

/-- What a register reads after a write, to any destination (42_scoreboard R164, R165). -/
theorem readReg_write (x : Vector Word 32) (hilo v : DWord) (dst : Option RegIdx) (r : RegIdx) :
    readReg (writeGpr x dst v) (writeHilo hilo dst v) r =
      if dst = some r ∧ r ≠ 0 then (if r.val = 32 then v else wideWord (lowWord v)) else readReg x hilo r := by
  cases dst with
  | none => simp
  | some d =>
    by_cases hd : d = r
    · subst hd
      by_cases h0 : d = 0
      · simp [h0]
      · rw [readReg_write_same x hilo v h0, if_pos (And.intro rfl h0)]
    · rw [readReg_write_other x hilo v hd, if_neg fun h => hd (Option.some.inj h.1)]

/-- The record of a write to a register other than 0 holds the value written (45_driver R268). -/
theorem recordedDst_some {r : RegIdx} (hr : r ≠ 0) (v : DWord) : recordedDst (some r) v = some v :=
  if_neg fun h => hr (Fin.ext h)

@[simp] theorem retireRecord_vDst (b : Body) (raw pc : Word) (v2 : DWord) (o : ExecOut) :
    (retireRecord b raw pc v2 o).vDst = recordedDst b.dst o.vDst := rfl

/-- Settles O11: the test for register 0 comes first in the read and in both writes. -/
theorem registerZeroIsHardwired : Obligations.RegisterZeroIsHardwired := by
  intro x hilo v
  exact ⟨readReg_zero x hilo, writeGpr_zero x v, writeHilo_zero hilo v⟩

/-! ### Terminal states -/

theorem State.terminal_not_running {s : State} (h : s.terminal) : s.runStatus ≠ .running := by
  rcases h with hd | ⟨f, hf⟩
  · simp [hd]
  · simp [hf]

theorem step_of_not_running {s : State} (h : s.runStatus ≠ .running) : step s = .next s := by
  rcases step_cases s with ⟨-, hstep⟩ | ⟨hrun, -⟩ | ⟨hrun, -⟩
  · exact hstep
  · exact absurd hrun h
  · exact absurd hrun h

/-- Settles O45: `step_cases` leaves a run that has ended only the step to itself. -/
theorem terminalStateStays : Obligations.TerminalStateStays := by
  intro s hs
  exact step_of_not_running (State.terminal_not_running hs)

end Sys2Proof.Machine
end

section
/-!
SUPPORT. The frame of a cycle before Writeback. Fetch, Decode, Execute and Memory leave registers, counters, REF and
retire log alone (10_state R23, 43_stages R211 to R213): `State.retired` is that part of the state, one lemma for each
operation says that it keeps it, and `retireOp_cases` says how Writeback moves it.
-/

namespace Sys2Proof.Machine

/-! ### The part of the state that only Writeback and the driver move -/

/-- Configuration, registers, counters, REF and retire log. -/
structure RetiredPart where
  config : CoreConfig
  x : Vector Word 32
  hilo : DWord
  cycle : Nat
  executedInstrs : Nat
  lastWritebackCycle : Nat
  ref : RefState
  retireLog : List RetireRecord

/-- The retired part of a state. -/
def State.retired (s : State) : RetiredPart where
  config := s.config
  x := s.x
  hilo := s.hilo
  cycle := s.cycle
  executedInstrs := s.executedInstrs
  lastWritebackCycle := s.lastWritebackCycle
  ref := s.ref
  retireLog := s.retireLog

section Operations
variable (s : State)

@[simp] theorem State.raise_retired (f : Fatal) : (s.raise f).retired = s.retired := rfl

@[simp] theorem State.beginCycle_retired : s.beginCycle.retired = s.retired := rfl

@[simp] theorem State.validate_retired (r : Option RegIdx) : (s.validate r).retired = s.retired := rfl

@[simp] theorem State.putFetch2Decode_retired (p : IfIdData) : (s.putFetch2Decode p).retired = s.retired := by
  simp [State.retired]

@[simp] theorem State.putDecode2FetchStall_retired : s.putDecode2FetchStall.retired = s.retired := by
  simp [State.retired]

@[simp] theorem State.putDecode2Execute_retired (r : InstrRec) : (s.putDecode2Execute r).retired = s.retired := by
  simp [State.retired]

@[simp] theorem State.putExecute2Memory_retired (r : InstrRec) : (s.putExecute2Memory r).retired = s.retired := by
  simp [State.retired]

@[simp] theorem State.putMemory2Writeback_retired (r : InstrRec) : (s.putMemory2Writeback r).retired = s.retired := by
  simp [State.retired]

@[simp] theorem State.putFetchFlush_retired : s.putFetchFlush.retired = s.retired := by
  simp [State.retired]

@[simp] theorem State.putDecodeFlush_retired : s.putDecodeFlush.retired = s.retired := by
  simp [State.retired]

@[simp] theorem State.putExecuteFlush_retired : s.putExecuteFlush.retired = s.retired := by
  simp [State.retired]

@[simp] theorem State.putMemoryFlush_retired : s.putMemoryFlush.retired = s.retired := by
  simp [State.retired]

@[simp] theorem State.putFetchTarget_retired (a : Word) : (s.putFetchTarget a).retired = s.retired := by
  simp [State.retired]

/-- A statement that keeps the retired part keeps it after any other, run or not (60_exceptions R283). -/
theorem State.andThen_retired {s : State} {f : State → State} {p : RetiredPart} (hs : s.retired = p)
    (hf : ∀ u : State, (f u).retired = u.retired) : (s.andThen f).retired = p := by
  by_cases hrun : s.runStatus = .running
  · rw [State.andThen_running hrun, hf, hs]
  · rw [State.andThen_ended hrun, hs]

@[simp] theorem State.takePacket_retired : s.takePacket.retired = s.retired := by
  rcases takePacket_cases s with ⟨-, h⟩ | ⟨-, -, h⟩ | ⟨p, q, -, -, h⟩
  · rw [h]
  · rw [h]
  · rw [h]; rfl

@[simp] theorem State.takePacket_acting : s.takePacket.acting = s.acting := by
  rcases takePacket_cases s with ⟨-, h⟩ | ⟨-, -, h⟩ | ⟨p, q, -, -, h⟩
  · rw [h]
  · rw [h]
  · rw [h]

@[simp] theorem State.validateAll_retired (rs : List InstrRec) : (State.validateAll rs s).retired = s.retired := by
  induction rs generalizing s with
  | nil => rfl
  | cons r rs ih => exact (ih (s.validate r.body.dst)).trans (s.validate_retired r.body.dst)

@[simp] theorem State.redirect_retired : s.redirect.retired = s.retired := by
  unfold State.redirect
  dsimp only
  split
  · split
    · rfl
    · rfl
  · rfl

@[simp] theorem State.fetchWord_retired : s.fetchWord.retired = s.retired := by
  unfold State.fetchWord
  split
  · rfl
  · exact State.andThen_retired (State.putFetch2Decode_retired _ _) fun _ => rfl

@[simp] theorem State.broadcastFlush_retired (pc target : Word) : (s.broadcastFlush pc target).retired = s.retired := by
  unfold State.broadcastFlush
  refine State.andThen_retired ?_ fun _ => rfl
  refine State.andThen_retired ?_ fun u => u.putFetchTarget_retired target
  refine State.andThen_retired ?_ State.putMemoryFlush_retired
  refine State.andThen_retired ?_ State.putExecuteFlush_retired
  exact State.andThen_retired s.putFetchFlush_retired State.putDecodeFlush_retired

@[simp] theorem State.accessAndForward_retired (access : Access) (r : InstrRec) (missed : Bool) :
    (s.accessAndForward access r missed).retired = s.retired := by
  unfold State.accessAndForward
  split
  · rfl
  · exact State.andThen_retired (State.putMemory2Writeback_retired _ _) fun _ => by cases missed <;> rfl

end Operations

/-! ### The stages before Writeback keep it -/

section Stages
variable {s t : State}

theorem fetchStage_retired (h : fetchStage s = .next t) : t.retired = s.retired := by
  unfold fetchStage at h
  dsimp only at h
  split at h
  · cases h; rfl
  · cases h
    exact State.andThen_retired (State.redirect_retired _) State.fetchWord_retired

theorem issueOp_retired {b : Body} (h : issueOp b s = .next t) : t.retired = s.retired := by
  unfold issueOp at h
  split at h
  · cases h
  · split at h
    · cases h
      exact State.andThen_retired (State.putDecode2Execute_retired _ _) fun _ => rfl
    · cases h
      exact State.andThen_retired (State.putDecode2FetchStall_retired _) fun _ => rfl

theorem executeOp_retired {f : InstrRec → InstrRec} (h : executeOp f s = .next t) : t.retired = s.retired := by
  unfold executeOp at h
  split at h
  · cases h
  · cases h
    exact State.andThen_retired (State.putExecute2Memory_retired _ _) fun _ => rfl

theorem memoryOp_retired {i : Instr} {access : Access} (h : memoryOp i access s = .next t) :
    t.retired = s.retired := by
  unfold memoryOp at h
  split at h
  · cases h
  · cases h
    refine State.andThen_retired ?_ fun u => u.accessAndForward_retired _ _ _
    split
    · exact State.broadcastFlush_retired _ _ _
    · rfl

theorem rejectOp_retired {code : Poison} {pc : Word} (h : rejectOp code pc s = .next t) : t.retired = s.retired := by
  unfold rejectOp at h
  split at h
  · exact issueOp_retired h
  · split at h <;> cases h <;> rfl

theorem decodeWork_retired (h : decodeWork s = .next t) (ha : s.acting = .decode) : t.retired = s.retired := by
  unfold decodeWork at h
  split at h
  · cases h; exact s.takePacket_retired
  · rw [← s.takePacket_retired]
    split at h
    · rw [exec_decode (by rw [State.takePacket_acting, ha])] at h
      exact issueOp_retired h
    · exact rejectOp_retired h
    · exact rejectOp_retired h

theorem executeWork_retired (h : executeWork s = .next t) (ha : s.acting = .execute) : t.retired = s.retired := by
  unfold executeWork at h
  split at h
  · cases h; rfl
  · split at h
    · rw [exec_execute ha] at h
      exact executeOp_retired h
    · exact executeOp_retired h

theorem memoryWork_retired (h : memoryWork s = .next t) (ha : s.acting = .memory) : t.retired = s.retired := by
  unfold memoryWork at h
  split at h
  · cases h; rfl
  · split at h
    · rw [exec_memory ha] at h
      exact memoryOp_retired h
    · cases h; rfl
    · cases h; rfl

/-- A stage's clock keeps the retired part when its stalled form and its operation do (43_stages R181). -/
theorem clockStage_retired {stalled : Bool} {shown afterRead : State} {operate : State → Result} {p : RetiredPart}
    (hshown : shown.retired = p) (hoperate : operate afterRead = .next t → t.retired = p)
    (h : clockStage stalled shown afterRead operate = .next t) : t.retired = p := by
  unfold clockStage at h
  split at h
  · cases h; exact hshown
  · exact hoperate h

theorem decodeOperate_retired (h : decodeOperate s = .next t) (ha : s.acting = .decode) :
    t.retired = s.retired := by
  unfold decodeOperate at h
  dsimp only at h
  split at h
  · cases h; rfl
  · exact (decodeWork_retired h ha).trans rfl

theorem decodeStage_retired (h : decodeStage s = .next t) : t.retired = s.retired := by
  refine clockStage_retired ?_ (fun hop => ?_) h
  · rfl
  · exact (decodeOperate_retired hop rfl).trans rfl

theorem executeOperate_retired (h : executeOperate s = .next t) (ha : s.acting = .execute) :
    t.retired = s.retired := by
  unfold executeOperate at h
  dsimp only at h
  split at h
  · cases h; exact State.validateAll_retired _ _
  · exact (executeWork_retired h ha).trans rfl

theorem executeStage_retired (h : executeStage s = .next t) : t.retired = s.retired := by
  refine clockStage_retired ?_ (fun hop => ?_) h
  · rfl
  · exact (executeOperate_retired hop rfl).trans rfl

theorem memoryOperate_retired (h : memoryOperate s = .next t) (ha : s.acting = .memory) :
    t.retired = s.retired := by
  unfold memoryOperate at h
  dsimp only at h
  split at h
  · cases h; exact State.validateAll_retired _ _
  · exact (memoryWork_retired h ha).trans rfl

theorem memoryStage_retired (h : memoryStage s = .next t) : t.retired = s.retired := by
  refine clockStage_retired ?_ (fun hop => ?_) h
  · rfl
  · exact (memoryOperate_retired hop rfl).trans rfl

/-- Stages that keep the retired part keep it one after the other (43_stages R217). -/
theorem andThenStage_retired {r : Result} {f : State → Result} {p : RetiredPart}
    (hr : ∀ {u : State}, r = .next u → u.retired = p)
    (hf : ∀ {u v : State}, f u = .next v → v.retired = u.retired)
    (h : andThenStage r f = .next t) : t.retired = p := by
  obtain ⟨u, hu, ⟨-, hfu⟩ | ⟨-, rfl⟩⟩ := andThenStage_next h
  · rw [hf hfu, hr hu]
  · exact hr hu

/-! ### Writeback moves it -/

/-- The retired part after Writeback's register write and its record (43_stages R211, R212). -/
def RetiredPart.write (p : RetiredPart) (b : Body) (r : InstrRec) : RetiredPart :=
  { p with
    x := writeGpr p.x b.dst r.out.vDst
    hilo := writeHilo p.hilo b.dst r.out.vDst
    retireLog := p.retireLog ++ [retireRecord b r.raw r.pc r.vSrc2 r.out] }

theorem RetiredPart.write_x (p : RetiredPart) (b : Body) (r : InstrRec) :
    (p.write b r).x = writeGpr p.x b.dst r.out.vDst := rfl

theorem RetiredPart.write_hilo (p : RetiredPart) (b : Body) (r : InstrRec) :
    (p.write b r).hilo = writeHilo p.hilo b.dst r.out.vDst := rfl

/-- The retired part after the retirement has been counted (43_stages R213). -/
def RetiredPart.count (p : RetiredPart) : RetiredPart :=
  { p with executedInstrs := p.executedInstrs + 1, lastWritebackCycle := p.cycle }

/-- The check of Writeback moves REF at most: the retirement is counted when it passes; when it fails the fatal is
CHECKER_MISMATCH and the counters stay (43_stages R212, R213). -/
theorem checkRecord_andThen_cases {record : RetireRecord} {f : State → State}
    (h : (s.checkRecord record).andThen f = t) (hs : s.runStatus = .running)
    (hf : ∀ u : State, (f u).runStatus = u.runStatus ∧ (f u).retired = u.retired.count) :
    ∃ ref', (t.runStatus = .running ∧ t.retired = ({ s.retired with ref := ref' } : RetiredPart).count) ∨
      (∃ other, t.runStatus = .faulted (.checkerMismatch record other) ∧ t.retired = { s.retired with ref := ref' }) := by
  have hpassed (ref' : RefState) (hc : s.checkRecord record = { s with ref := ref' }) :
      t.runStatus = .running ∧ t.retired = ({ s.retired with ref := ref' } : RetiredPart).count := by
    rw [hc, State.andThen_running (s := { s with ref := ref' }) hs] at h
    obtain ⟨hstatus, hretired⟩ := hf { s with ref := ref' }
    rw [h] at hstatus hretired
    exact ⟨hstatus.trans hs, hretired⟩
  rcases checkRecord_cases record s with ⟨-, hc⟩ | ⟨ref', -, -, hc⟩ | ⟨other, ref', -, hc⟩
  · exact ⟨s.ref, .inl (hpassed s.ref hc)⟩
  · exact ⟨ref', .inl (hpassed ref' hc)⟩
  · rw [hc, State.andThen_ended (by simp)] at h
    subst h
    exact ⟨ref', .inr ⟨other, rfl, rfl⟩⟩

/-- What Writeback does to the retired part: it writes register and record, then checks and counts
(43_stages R211 to R213). -/
theorem retireOp_cases {b : Body} (h : retireOp b s = .next t) (hs : s.runStatus = .running) :
    ∃ r q ref', portRead s.cycle s.memory2Writeback = some (r, q) ∧
      ((t.runStatus = .running ∧ t.retired = ({ s.retired.write b r with ref := ref' } : RetiredPart).count) ∨
        (∃ other, t.runStatus = .faulted (.checkerMismatch (retireRecord b r.raw r.pc r.vSrc2 r.out) other) ∧
          t.retired = { s.retired.write b r with ref := ref' })) := by
  unfold retireOp at h
  split at h
  · cases h
  · next r q hread =>
    obtain ⟨ref', hmoved⟩ := checkRecord_andThen_cases (Host.Outcome.next.inj h) hs fun _ => ⟨rfl, rfl⟩
    exact ⟨r, q, ref', hread, hmoved⟩

/-- Writeback is idle, or it retires the record it reads from P7 (43_stages R210). -/
theorem writebackStage_cases (h : writebackStage s = .next t) :
    t = { s with acting := .writeback, wbStatus := some .idle } ∨
      ∃ r q, portRead s.cycle s.memory2Writeback = some (r, q) ∧
        retireOp r.body { s with acting := .writeback } = .next t := by
  unfold writebackStage at h
  dsimp only at h
  split at h
  · cases h; exact .inl rfl
  · next r q hread =>
    refine .inr ⟨r, q, hread, ?_⟩
    split at h
    · next i hbody => rwa [exec_writeback rfl, ← hbody] at h
    · next code hbody => rwa [← hbody] at h

/-- A cycle keeps the retired part up to Writeback, which ends it unless a fatal came first (43_stages R217). -/
theorem cycleStep_cases (h : cycleStep s = .next t) :
    t.retired = s.retired ∨
      ∃ w : State, w.runStatus = .running ∧ w.retired = s.retired ∧ writebackStage w = .next t := by
  obtain ⟨w, hw, hrest⟩ := andThenStage_next h
  have hkept : w.retired = s.retired :=
    andThenStage_retired (andThenStage_retired (andThenStage_retired
      (fun hf => (fetchStage_retired hf).trans s.beginCycle_retired) decodeStage_retired)
      executeStage_retired) memoryStage_retired hw
  rcases hrest with ⟨hrun, hwb⟩ | ⟨-, rfl⟩
  · exact .inr ⟨w, hrun, hkept, hwb⟩
  · exact .inl hkept

@[simp] theorem endCycle_retired (s : State) : s.endCycle.retired = { s.retired with cycle := s.cycle + 1 } := by
  rcases endCycle_cases s with ⟨-, h⟩ | ⟨-, -, h⟩ | ⟨-, -, h⟩
  · rw [h]; rfl
  · rw [h]; rfl
  · rw [h]; rfl

end Stages

end Sys2Proof.Machine
end

section
/-!
SUPPORT. Registers and retire log over a whole step (10_state R23, R36, R42).
-/

namespace Sys2Proof.Machine

/-- From `p` to `q` the configuration stays, and registers and log move by one retirement or not at all; REF and the
counters may be anything. -/
def RetiredPart.MovesRegisters (p q : RetiredPart) : Prop :=
  q.config = p.config ∧
    ((q.x = p.x ∧ q.hilo = p.hilo ∧ q.retireLog = p.retireLog) ∨
      ∃ b r, q.x = (p.write b r).x ∧ q.hilo = (p.write b r).hilo ∧ q.retireLog = (p.write b r).retireLog)

namespace RetiredPart.MovesRegisters

variable {p q : RetiredPart}

theorem refl (p : RetiredPart) : p.MovesRegisters p := ⟨rfl, .inl ⟨rfl, rfl, rfl⟩⟩

theorem write (p : RetiredPart) (b : Body) (r : InstrRec) (ref' : RefState) :
    p.MovesRegisters { p.write b r with ref := ref' } := ⟨rfl, .inr ⟨b, r, rfl, rfl, rfl⟩⟩

theorem count (h : p.MovesRegisters q) : p.MovesRegisters q.count := h

theorem setCycle (h : p.MovesRegisters q) (n : Nat) : p.MovesRegisters { q with cycle := n } := h

theorem config_eq (h : p.MovesRegisters q) : q.config = p.config := h.1

theorem log_grows (h : p.MovesRegisters q) : p.retireLog <+: q.retireLog := by
  obtain ⟨-, ⟨-, -, hlog⟩ | ⟨b, r, -, -, hlog⟩⟩ := h
  · rw [hlog]
  · exact ⟨_, hlog.symm⟩

/-- A register that changed is the destination of the one record appended, and holds its value. -/
theorem of_readReg_ne (h : p.MovesRegisters q) {r : RegIdx} (hne : readReg q.x q.hilo r ≠ readReg p.x p.hilo r) :
    ∃ record v, q.retireLog = p.retireLog ++ [record] ∧ record.dst = some r ∧ record.vDst = some v ∧
      readReg q.x q.hilo r = (if r.val = 32 then v else wideWord (lowWord v)) := by
  obtain ⟨-, ⟨hx, hhilo, -⟩ | ⟨b, executed, hx, hhilo, hlog⟩⟩ := h
  · rw [hx, hhilo] at hne
    exact absurd rfl hne
  · have hread := readReg_write p.x p.hilo executed.out.vDst b.dst r
    rw [← p.write_x b executed, ← p.write_hilo b executed, ← hx, ← hhilo] at hread
    by_cases hdst : b.dst = some r ∧ r ≠ 0
    · rw [if_pos hdst] at hread
      obtain ⟨hr, h0⟩ := hdst
      exact ⟨_, executed.out.vDst, hlog, hr, by rw [retireRecord_vDst, hr, recordedDst_some h0], hread⟩
    · rw [if_neg hdst] at hread
      exact absurd hread hne

end RetiredPart.MovesRegisters

section Steps
variable {s t : State}

theorem writebackStage_movesRegisters (hs : s.runStatus = .running) (h : writebackStage s = .next t) :
    s.retired.MovesRegisters t.retired := by
  rcases writebackStage_cases h with rfl | ⟨r, -, -, hretire⟩
  · exact .refl _
  · obtain ⟨r', -, ref', -, ⟨-, hmoved⟩ | ⟨-, -, hmoved⟩⟩ := retireOp_cases hretire hs
    · rw [hmoved]
      exact (RetiredPart.MovesRegisters.write s.retired r.body r' ref').count
    · rw [hmoved]
      exact .write s.retired r.body r' ref'

theorem cycleStep_movesRegisters (h : cycleStep s = .next t) : s.retired.MovesRegisters t.retired := by
  rcases cycleStep_cases h with hkept | ⟨w, hrun, hkept, hwb⟩
  · rw [hkept]
    exact .refl _
  · rw [← hkept]
    exact writebackStage_movesRegisters hrun hwb

theorem step_movesRegisters (h : step s = .next t) : s.retired.MovesRegisters t.retired := by
  rcases step_cases s with ⟨-, hstep⟩ | ⟨-, -, hstep⟩ | ⟨-, -, hstep⟩
  · cases hstep.symm.trans h
    exact .refl _
  · cases hstep.symm.trans h
    exact .refl _
  · obtain ⟨u, hu, ⟨-, hend⟩ | ⟨-, rfl⟩⟩ := andThenStage_next (hstep.symm.trans h)
    · cases hend
      rw [endCycle_retired]
      exact (cycleStep_movesRegisters hu).setCycle _
    · exact cycleStep_movesRegisters hu

end Steps

/-- Settles O58: Fetch to Memory keep registers and log, and Writeback moves both by the one record it retires. -/
theorem onlyRetirementWritesRegisters : Obligations.OnlyRetirementWritesRegisters := by
  intro s t h
  have hmoved := step_movesRegisters h
  exact ⟨hmoved.config_eq, hmoved.log_grows, fun _ hne => hmoved.of_readReg_ne hne⟩

end Sys2Proof.Machine
end

section
/-!
SUPPORT. MemRead and MemWrite (20_memory R61 to R64): the bytes a write leaves at its own addresses, the value of
bytes in each ENDIAN order, and when the MISALIGNED_POLICY lets an access happen.
-/

namespace Sys2Proof.Machine

/-! ### The bytes of an access -/

@[simp] theorem accessAddrs_length (addr : Word) (n : Nat) : (accessAddrs addr n).length = n := by
  simp [accessAddrs]

@[simp] theorem splitBytes_length (n : Nat) (v : Word) : (splitBytes n v).length = n := by
  simp [splitBytes]

@[simp] theorem inEndianOrder_length (e : Endian) (bs : List Byte) : (inEndianOrder e bs).length = bs.length := by
  cases e <;> simp [inEndianOrder]

/-- Taking bytes to the other order and back gives them as they were (20_memory R63). -/
@[simp] theorem inEndianOrder_inEndianOrder (e : Endian) (bs : List Byte) :
    inEndianOrder e (inEndianOrder e bs) = bs := by
  cases e <;> simp [inEndianOrder]

theorem mem_accessAddrs {addr : Word} {n a : Nat} :
    a ∈ accessAddrs addr n ↔ ∃ k < n, a = (addr + BitVec.ofNat 32 k).toNat := by
  simp only [accessAddrs, List.mem_map, List.mem_range, eq_comm]

/-- An access of at most 2^32 bytes names no address twice, although it wraps (20_memory R61). -/
theorem accessAddrs_nodup (addr : Word) {n : Nat} (hn : n ≤ 2 ^ 32) : (accessAddrs addr n).Nodup := by
  refine List.Nodup.map_on (fun i hi j hj hij => ?_) List.nodup_range
  have hofNat : BitVec.ofNat 32 i = BitVec.ofNat 32 j := by simpa using BitVec.eq_of_toNat_eq hij
  have hi' : i < 2 ^ 32 := Nat.lt_of_lt_of_le (List.mem_range.mp hi) hn
  have hj' : j < 2 ^ 32 := Nat.lt_of_lt_of_le (List.mem_range.mp hj) hn
  have htoNat := congrArg BitVec.toNat hofNat
  rwa [BitVec.toNat_ofNat, BitVec.toNat_ofNat, Nat.mod_eq_of_lt hi', Nat.mod_eq_of_lt hj'] at htoNat

theorem legalSize_iff {n : Nat} : legalSize n = true ↔ n = 1 ∨ n = 2 ∨ n = 4 := by
  simp [legalSize, or_assoc]

theorem le_of_legalSize {n : Nat} (hn : legalSize n = true) : n ≤ 2 ^ 32 := by
  rcases legalSize_iff.mp hn with rfl | rfl | rfl <;> decide

/-! ### What a write leaves -/

/-- Bytes written at distinct addresses are all read back. -/
theorem map_readByte_writeBytes {m : Memory} (hm : Memory.wf m = true) {addrs : List Nat} {bytes : List Byte}
    (hlength : addrs.length = bytes.length) (hdistinct : addrs.Nodup) (hlt : ∀ a ∈ addrs, a < 2 ^ 32) :
    addrs.map (readByte (writeBytes m (addrs.zip bytes))) = bytes := by
  induction addrs generalizing m bytes with
  | nil => exact (List.eq_nil_of_length_eq_zero hlength.symm).symm
  | cons a addrs ih =>
    obtain _ | ⟨b, bytes⟩ := bytes
    · cases hlength
    · obtain ⟨hnotMem, hdistinct⟩ := List.nodup_cons.mp hdistinct
      obtain ⟨ha, hlt⟩ := List.forall_mem_cons.mp hlt
      have hhead : readByte (writeBytes (writeByte m a b) (addrs.zip bytes)) a = b := by
        rw [readByte_writeBytes_other, readByte_writeByte_same hm]
        rintro c hc rfl
        exact hnotMem (List.of_mem_zip hc).1
      rw [List.zip_cons_cons, writeBytes, List.map_cons, hhead,
        ih (writeByte_wf hm ha b) (Nat.succ.inj hlength) hdistinct hlt]

/-- The addresses of a write hold the low bytes of its value in ENDIAN order (20_memory R62, R63). -/
theorem map_readByte_memStored {m : Memory} (hm : Memory.wf m = true) (c : CoreConfig) (addr : Word) {n : Nat}
    (hn : n ≤ 2 ^ 32) (v : Word) :
    (accessAddrs addr n).map (readByte (memStored c m addr n v)) = inEndianOrder c.endian (splitBytes n v) :=
  map_readByte_writeBytes hm (by simp) (accessAddrs_nodup addr hn) fun _ => accessAddrs_lt

/-- A write leaves every byte but those of its own addresses (20_memory R62). -/
theorem readByte_memStored_other (c : CoreConfig) (m : Memory) {addr : Word} {n a : Nat} (v : Word)
    (ha : a ∉ accessAddrs addr n) : readByte (memStored c m addr n v) a = readByte m a := by
  refine readByte_writeBytes_other ?_ m
  rintro c hc rfl
  exact ha (List.of_mem_zip hc).1

/-- Which byte of the value stands at offset `k` of an access (20_memory R63). -/
theorem getElem_inEndianOrder_splitBytes (e : Endian) (v : Word) {n k : Nat} (hk : k < n) :
    (inEndianOrder e (splitBytes n v))[k]'(by simpa using hk) =
      v.extractLsb' (8 * (if e = .little then k else n - 1 - k)) 8 := by
  cases e with
  | little => simp [inEndianOrder, splitBytes]
  | big => simp [inEndianOrder, splitBytes]

/-- The byte a write leaves at offset `k` of its address (20_memory R62). -/
theorem readByte_memStored_same {m : Memory} (hm : Memory.wf m = true) (c : CoreConfig) (addr : Word) {n k : Nat}
    (hn : n ≤ 2 ^ 32) (hk : k < n) (v : Word) :
    readByte (memStored c m addr n v) (addr + BitVec.ofNat 32 k).toNat =
      v.extractLsb' (8 * (if c.endian = .little then k else n - 1 - k)) 8 := by
  rw [← getElem_inEndianOrder_splitBytes c.endian v hk]
  simp only [← map_readByte_memStored hm c addr hn v]
  simp [accessAddrs]

/-- A read of what was written gives the low bytes of the value (20_memory R63). -/
theorem memValue_memStored {m : Memory} (hm : Memory.wf m = true) (c : CoreConfig) (addr : Word) {n : Nat}
    (hn : n ≤ 2 ^ 32) (v : Word) : memValue c (memStored c m addr n v) addr n = lowBytes n v := by
  rw [memValue, map_readByte_memStored hm c addr hn v, inEndianOrder_inEndianOrder, lowBytes]

/-! ### The value of bytes -/

/-- One more byte below a value of any width. -/
theorem setWidth_append_byte {w : Nat} (x : BitVec w) (b : Byte) :
    (x.setWidth 32 <<< 8) ||| b.setWidth 32 = (x ++ b).setWidth 32 := by
  apply BitVec.eq_of_getLsbD_eq
  intro i hi
  rw [BitVec.getLsbD_or, BitVec.getLsbD_shiftLeft, BitVec.getLsbD_setWidth, BitVec.getLsbD_setWidth,
    BitVec.getLsbD_setWidth, BitVec.getLsbD_append]
  by_cases h8 : i < 8
  · simp [h8, hi]
  · simp [h8, hi, BitVec.getLsbD_of_ge b i (by omega), show i - 8 < 32 by omega]

theorem assembleBytes_one (b0 : Byte) : assembleBytes [b0] = b0.setWidth 32 := by
  simp [assembleBytes]

theorem assembleBytes_two (b0 b1 : Byte) : assembleBytes [b0, b1] = (b1 ++ b0).setWidth 32 := by
  rw [assembleBytes, assembleBytes_one, setWidth_append_byte]

theorem assembleBytes_four (b0 b1 b2 b3 : Byte) : assembleBytes [b0, b1, b2, b3] = b3 ++ b2 ++ b1 ++ b0 := by
  rw [assembleBytes, assembleBytes, assembleBytes_two, setWidth_append_byte, setWidth_append_byte, BitVec.setWidth_eq]

/-- Settles O8: each order reads its list of bytes as the concatenation, and a read of what was written takes the
bytes out of the order the write put them in. -/
theorem byteOrderAndInverse : Obligations.ByteOrderAndInverse := by
  intro c m addr
  refine ⟨fun he => ?_, fun he => ?_, fun hm n v hn => ?_⟩
  · simp only [memValue, he]
    exact ⟨assembleBytes_one _, assembleBytes_two _ _, assembleBytes_four _ _ _ _⟩
  · simp only [memValue, he]
    exact ⟨assembleBytes_one _, assembleBytes_two _ _, assembleBytes_four _ _ _ _⟩
  · rw [memValue_memStored hm c addr (le_of_legalSize hn) v, lowBytes_eq_mask]

/-! ### The MISALIGNED_POLICY -/

/-- An access is held back exactly when the policy is `fault` and the address is no multiple of the size
(20_memory R64). -/
theorem accessAllowed_eq_false_iff {c : CoreConfig} {addr : Word} {n : Nat} :
    accessAllowed c addr n = false ↔ c.misalignedPolicy = .fault ∧ addr.toNat % n ≠ 0 := by
  cases hp : c.misalignedPolicy <;> simp [accessAllowed, aligned, hp]

theorem accessAllowed_iff {c : CoreConfig} {addr : Word} {n : Nat} :
    accessAllowed c addr n = true ↔ c.misalignedPolicy = .bytewise ∨ addr.toNat % n = 0 := by
  cases hp : c.misalignedPolicy <;> simp [accessAllowed, aligned, hp]

theorem memRead_allowed {c : CoreConfig} {addr : Word} {n : Nat} (h : accessAllowed c addr n = true) (m : Memory) :
    memRead c m addr n = .ok (memValue c m addr n) := if_pos h

theorem memWrite_allowed {c : CoreConfig} {addr : Word} {n : Nat} (h : accessAllowed c addr n = true) (m : Memory)
    (v : Word) : memWrite c m addr n v = .ok (memStored c m addr n v) := if_pos h

theorem memRead_misaligned {c : CoreConfig} {addr : Word} {n : Nat} (h : accessAllowed c addr n = false) (m : Memory) :
    memRead c m addr n = .error (.misaligned addr n) := if_neg (by simp [h])

theorem memWrite_misaligned {c : CoreConfig} {addr : Word} {n : Nat} (h : accessAllowed c addr n = false) (m : Memory)
    (v : Word) : memWrite c m addr n v = .error (.misaligned addr n) := if_neg (by simp [h])

/-- Settles O10: the policy decides before either access looks at memory. -/
theorem misalignedAccessFaults : Obligations.MisalignedAccessFaults := by
  intro c m addr n v
  refine ⟨fun hp hn => ?_, fun h => ?_⟩
  · have hheld := accessAllowed_eq_false_iff.mpr ⟨hp, hn⟩
    exact ⟨memRead_misaligned hheld m, memWrite_misaligned hheld m v⟩
  · have hallowed := accessAllowed_iff.mpr h
    exact ⟨memRead_allowed hallowed m, memWrite_allowed hallowed m v⟩

/-- Settles O9: a held-back write reports; an allowed one reads back its own bytes and leaves the others. -/
theorem memWriteStoresExactlyItsBytes : Obligations.MemWriteStoresExactlyItsBytes := by
  intro c m addr n v hm hn
  rcases memWrite_cases c m addr n v with ⟨hallowed, hwrite⟩ | ⟨hheld, hwrite⟩
  · refine .inr ⟨fun hp => ?_, _, hwrite, memStored_wf hm c addr n v, fun k hk => ?_, fun a ha => ?_⟩
    · simpa [hp] using accessAllowed_iff.mp hallowed
    · exact readByte_memStored_same hm c addr (le_of_legalSize hn) hk v
    · refine readByte_memStored_other c m v fun hmem => ?_
      obtain ⟨k, hk, rfl⟩ := mem_accessAddrs.mp hmem
      exact ha k hk rfl
  · obtain ⟨hp, hmisaligned⟩ := accessAllowed_eq_false_iff.mp hheld
    exact .inl ⟨hp, hmisaligned, hwrite⟩

end Sys2Proof.Machine
end

section
/-!
SUPPORT. Memory's work on an instruction (43_stages R203 to R209): the access of its class, the state it has signalled
when its ports are free, and a misaligned access.
-/

namespace Sys2Proof.Machine

/-! ### The access of a class -/

/-- No instruction has two classes (30_encoding R85, R86). -/
theorem oneClass (i : Instr) : Sys2Proof.Laws.OneClass.Statement i := by
  cases i <;> exact ⟨rfl, rfl, rfl⟩

/-- A load or a store is no jump, so Memory updates the predictor toward not taken (43_stages R204). -/
theorem actuallyTaken_of_access {i : Instr} (hi : i.isLoad = true ∨ i.isStore = true) (o : ExecOut) :
    actuallyTaken i o = false := by
  obtain ⟨-, hload, hstore⟩ := oneClass i
  have hjump : i.isJump = false := by
    rcases hi with h | h
    · simpa [h] using hload
    · simpa [h] using hstore
  simp [actuallyTaken, hjump]

/-- A held-back access of a load or a store raises MISALIGNED with its address and size (20_memory R64). -/
theorem accessOf_misaligned {i : Instr} (hi : i.isLoad = true ∨ i.isStore = true) {r : InstrRec} {s : State}
    (hheld : accessAllowed s.config r.out.memAddr i.memSize = false) :
    accessOf i r s = .error (.misaligned r.out.memAddr i.memSize) := by
  unfold accessOf
  split
  · rw [loadAccess, memRead_misaligned hheld]; rfl
  · next hload =>
    rw [if_pos (hi.resolve_left hload), storeAccess, memWrite_misaligned hheld]; rfl

/-- An access that takes place leaves memory alone, or it is a store and forwards its record unchanged
(43_stages R208). -/
theorem accessOf_ok {i : Instr} {r r' : InstrRec} {s : State} {m : Memory} (h : accessOf i r s = .ok (r', m)) :
    m = s.mem ∨ (i.isStore = true ∧ r' = r ∧ m = memStored s.config s.mem r.out.memAddr i.memSize (lowWord r.vSrc2)) := by
  unfold accessOf at h
  split at h
  · rcases loadAccess_cases i.memSize r s with ⟨-, hload⟩ | ⟨-, hload⟩
    · cases hload.symm.trans h; exact .inl rfl
    · cases hload.symm.trans h
  · split at h
    · next hi =>
      rcases storeAccess_cases i.memSize r s with ⟨-, hstore⟩ | ⟨-, hstore⟩
      · cases hstore.symm.trans h; exact .inr ⟨hi, rfl, rfl⟩
      · cases hstore.symm.trans h
    · cases h; exact .inl rfl

/-! ### The misprediction action on free ports -/

section Signals
variable {s : State}

theorem putFetchFlush_of_free (h : noWriteYet s.cycle s.memory2FetchFlush) :
    s.putFetchFlush = { s with memory2FetchFlush := written s.cycle true s.memory2FetchFlush } := by
  rw [State.putFetchFlush, portWrite_of_free h]; rfl

theorem putDecodeFlush_of_free (h : noWriteYet s.cycle s.memory2DecodeFlush) :
    s.putDecodeFlush = { s with memory2DecodeFlush := written s.cycle true s.memory2DecodeFlush } := by
  rw [State.putDecodeFlush, portWrite_of_free h]; rfl

theorem putExecuteFlush_of_free (h : noWriteYet s.cycle s.memory2ExecuteFlush) :
    s.putExecuteFlush = { s with memory2ExecuteFlush := written s.cycle true s.memory2ExecuteFlush } := by
  rw [State.putExecuteFlush, portWrite_of_free h]; rfl

theorem putMemoryFlush_of_free (h : noWriteYet s.cycle s.memory2MemoryFlush) :
    s.putMemoryFlush = { s with memory2MemoryFlush := written s.cycle true s.memory2MemoryFlush } := by
  rw [State.putMemoryFlush, portWrite_of_free h]; rfl

theorem putFetchTarget_of_free {a : Word} (h : noWriteYet s.cycle s.memory2FetchTarget) :
    s.putFetchTarget a = { s with memory2FetchTarget := written s.cycle a s.memory2FetchTarget } := by
  rw [State.putFetchTarget, portWrite_of_free h]; rfl

/-- A statement that ran after one that raised nothing (60_exceptions R283). -/
theorem State.andThen_eq {u v : State} {f : State → State} (hs : s = u) (hrun : u.runStatus = .running)
    (hf : f u = v) : s.andThen f = v := by
  rw [hs, State.andThen_running hrun, hf]

/-- On free ports the misprediction action signals on all five and raises nothing (43_stages R207). -/
theorem broadcastFlush_of_free (hrun : s.runStatus = .running) (hfree : memoryPortsFree s) (pc target : Word) :
    s.broadcastFlush pc target = withSignals true pc target s := by
  obtain ⟨hfetch, hdecode, hexecute, hmemory, htarget, -⟩ := hfree
  have hafterDecode := State.andThen_eq (putFetchFlush_of_free hfetch) hrun (putDecodeFlush_of_free hdecode)
  have hafterExecute := State.andThen_eq hafterDecode hrun (putExecuteFlush_of_free hexecute)
  have hafterMemory := State.andThen_eq hafterExecute hrun (putMemoryFlush_of_free hmemory)
  have hafterTarget := State.andThen_eq (f := State.putFetchTarget target) hafterMemory hrun (putFetchTarget_of_free htarget)
  exact State.andThen_eq hafterTarget hrun rfl

end Signals

/-! ### Memory before its access -/

/-- The misprediction test of Memory on the record of `i` (43_stages R204, R206). -/
def missed (i : Instr) (r : InstrRec) : Bool := mispredict r (actuallyTaken i r.out) r.out.newPc

/-- The state after Memory has read its record and updated the predictor (43_stages R205). -/
def State.predictorUpdated (i : Instr) (r : InstrRec) (q : Port InstrRec) (s : State) : State :=
  { s with execute2Memory := q, btb := btbUpdate s.config s.btb (actuallyTaken i r.out) r.pc r.out.newPc }

/-- The state in which Memory accesses memory, when its ports were free (43_stages R205 to R207). -/
def State.signalled (i : Instr) (r : InstrRec) (q : Port InstrRec) (s : State) : State :=
  if missed i r then withSignals true r.pc r.out.newPc (s.predictorUpdated i r q) else s.predictorUpdated i r q

section Signalled
variable (i : Instr) (r : InstrRec) (q : Port InstrRec) (s : State)

@[simp] theorem State.signalled_config : (s.signalled i r q).config = s.config := by
  unfold State.signalled; split <;> rfl

@[simp] theorem State.signalled_mem : (s.signalled i r q).mem = s.mem := by
  unfold State.signalled; split <;> rfl

@[simp] theorem State.signalled_memory2Writeback : (s.signalled i r q).memory2Writeback = s.memory2Writeback := by
  unfold State.signalled; split <;> rfl

@[simp] theorem State.signalled_btb :
    (s.signalled i r q).btb = btbUpdate s.config s.btb (actuallyTaken i r.out) r.pc r.out.newPc := by
  unfold State.signalled; split <;> rfl

@[simp] theorem State.signalled_x : (s.signalled i r q).x = s.x := by
  unfold State.signalled; split <;> rfl

@[simp] theorem State.signalled_hilo : (s.signalled i r q).hilo = s.hilo := by
  unfold State.signalled; split <;> rfl

@[simp] theorem State.signalled_sb : (s.signalled i r q).sb = s.sb := by
  unfold State.signalled; split <;> rfl

@[simp] theorem State.signalled_runStatus : (s.signalled i r q).runStatus = s.runStatus := by
  unfold State.signalled; split <;> rfl

end Signalled

/-- On free ports Memory signals, then accesses memory and forwards (43_stages R203 to R209). -/
theorem memoryOp_of_free {i : Instr} {access : Access} {s : State} {r : InstrRec} {q : Port InstrRec}
    (hrun : s.runStatus = .running) (hread : portRead s.cycle s.execute2Memory = some (r, q))
    (hfree : memoryPortsFree s) :
    memoryOp i access s = .next ((s.signalled i r q).accessAndForward access r (missed i r)) := by
  have hsignalled : (if missed i r then (s.predictorUpdated i r q).broadcastFlush r.pc r.out.newPc
      else s.predictorUpdated i r q) = s.signalled i r q := by
    rw [broadcastFlush_of_free (s := s.predictorUpdated i r q) hrun hfree, State.signalled]
  rw [memoryOp, hread]
  exact congrArg Host.Outcome.next (State.andThen_eq hsignalled (by simpa using hrun) rfl)

theorem accessAndForward_error {access : Access} {r : InstrRec} {s : State} {f : Fatal} (h : access r s = .error f)
    (missed : Bool) : s.accessAndForward access r missed = s.raise f := by
  rw [State.accessAndForward, h]

theorem InstrRec.out_of_result {r : InstrRec} {o : ExecOut} (h : r.result = some o) : r.out = o := by
  rw [InstrRec.out, h]

/-- Settles O35: the held-back access raises its fatal in the state Memory has signalled, which differs from the one
before in the predictor, in P5 and in the signals only. -/
theorem misalignedDataAccessEndsRun : Obligations.MisalignedDataAccessEndsRun := by
  intro i s r q o hacting hrun hi hread hresult hfree hpolicy hmisaligned
  obtain rfl := InstrRec.out_of_result hresult
  have hheld : accessAllowed (s.signalled i r q).config r.out.memAddr i.memSize = false := by
    rw [State.signalled_config]
    exact accessAllowed_eq_false_iff.mpr ⟨hpolicy, hmisaligned⟩
  refine ⟨(s.signalled i r q).raise (.misaligned r.out.memAddr i.memSize), ?_, rfl, ?_⟩
  · rw [exec_memory hacting, memoryOp_of_free hrun hread hfree, accessAndForward_error (accessOf_misaligned hi hheld)]
  · simp [actuallyTaken_of_access hi]

end Sys2Proof.Machine
end

section
/-!
SUPPORT. Memory over a whole step (20_memory R69, 10_state R42). Every stage but Memory leaves memory alone, and a
record that Memory forwards in a cycle stays in P7 until the next one.
-/

namespace Sys2Proof.Machine

section Keeps
variable {β : Type}

/-- A statement that leaves a part of the state alone leaves it alone whether it runs or not (60_exceptions R283). -/
theorem State.andThen_keeps (part : State → β) {s : State} {f : State → State} {p : β} (hs : part s = p)
    (hf : ∀ u, part (f u) = part u) : part (s.andThen f) = p := by
  by_cases hrun : s.runStatus = .running
  · rw [State.andThen_running hrun, hf, hs]
  · rw [State.andThen_ended hrun, hs]

/-- A clock keeps what its stalled form and its operation keep (43_stages R181). -/
theorem clockStage_keeps (part : State → β) {stalled : Bool} {shown afterRead t : State} {operate : State → Result}
    {p : β} (hshown : part shown = p) (hoperate : operate afterRead = .next t → part t = p)
    (h : clockStage stalled shown afterRead operate = .next t) : part t = p := by
  unfold clockStage at h
  split at h
  · cases h; exact hshown
  · exact hoperate h

/-- Stages that keep a part keep it one after the other (43_stages R217). -/
theorem andThenStage_keeps (part : State → β) {r : Result} {f : State → Result} {t : State} {p : β}
    (hr : ∀ {u : State}, r = .next u → part u = p) (hf : ∀ {u v : State}, f u = .next v → part v = part u)
    (h : andThenStage r f = .next t) : part t = p := by
  obtain ⟨u, hu, ⟨-, hfu⟩ | ⟨-, rfl⟩⟩ := andThenStage_next h
  · rw [hf hfu, hr hu]
  · exact hr hu

end Keeps

/-! ### The operations that leave memory alone -/

section Operations
variable (s : State)

@[simp] theorem State.takePacket_mem : s.takePacket.mem = s.mem := by
  rcases takePacket_cases s with ⟨-, h⟩ | ⟨-, -, h⟩ | ⟨p, q, -, -, h⟩
  · rw [h]
  · rw [h]
  · rw [h]

@[simp] theorem State.validateAll_mem (rs : List InstrRec) : (State.validateAll rs s).mem = s.mem := by
  induction rs generalizing s with
  | nil => rfl
  | cons r rs ih => exact (ih (s.validate r.body.dst)).trans (s.validate_mem r.body.dst)

@[simp] theorem State.redirect_mem : s.redirect.mem = s.mem := by
  unfold State.redirect
  dsimp only
  split
  · split
    · rfl
    · rfl
  · rfl

@[simp] theorem State.fetchWord_mem : s.fetchWord.mem = s.mem := by
  unfold State.fetchWord
  split
  · rfl
  · exact State.andThen_keeps State.mem (State.putFetch2Decode_mem _ _) fun _ => rfl

@[simp] theorem State.broadcastFlush_mem (pc target : Word) : (s.broadcastFlush pc target).mem = s.mem := by
  unfold State.broadcastFlush
  refine State.andThen_keeps State.mem ?_ fun _ => rfl
  refine State.andThen_keeps State.mem ?_ fun u => u.putFetchTarget_mem target
  refine State.andThen_keeps State.mem ?_ State.putMemoryFlush_mem
  refine State.andThen_keeps State.mem ?_ State.putExecuteFlush_mem
  exact State.andThen_keeps State.mem s.putFetchFlush_mem State.putDecodeFlush_mem

@[simp] theorem State.checkRecord_mem (record : RetireRecord) : (s.checkRecord record).mem = s.mem := by
  rcases checkRecord_cases record s with ⟨-, h⟩ | ⟨ref', -, -, h⟩ | ⟨other, ref', -, h⟩
  · rw [h]
  · rw [h]
  · rw [h]; rfl

@[simp] theorem State.checkRecord_memory2Writeback (record : RetireRecord) :
    (s.checkRecord record).memory2Writeback = s.memory2Writeback := by
  rcases checkRecord_cases record s with ⟨-, h⟩ | ⟨ref', -, -, h⟩ | ⟨other, ref', -, h⟩
  · rw [h]
  · rw [h]
  · rw [h]; rfl

@[simp] theorem State.endCycle_mem : s.endCycle.mem = s.mem := by
  rcases endCycle_cases s with ⟨-, h⟩ | ⟨-, -, h⟩ | ⟨-, -, h⟩
  · rw [h]; rfl
  · rw [h]
  · rw [h]

@[simp] theorem State.endCycle_memory2Writeback : s.endCycle.memory2Writeback = s.memory2Writeback := by
  rcases endCycle_cases s with ⟨-, h⟩ | ⟨-, -, h⟩ | ⟨-, -, h⟩
  · rw [h]; rfl
  · rw [h]
  · rw [h]

end Operations

/-! ### The stages before Memory -/

section Stages
variable {s t : State}

theorem fetchStage_mem (h : fetchStage s = .next t) : t.mem = s.mem := by
  unfold fetchStage at h
  dsimp only at h
  split at h
  · cases h; rfl
  · cases h
    exact State.andThen_keeps State.mem (State.redirect_mem _) State.fetchWord_mem

theorem issueOp_mem {b : Body} (h : issueOp b s = .next t) : t.mem = s.mem := by
  unfold issueOp at h
  split at h
  · cases h
  · split at h
    · cases h
      exact State.andThen_keeps State.mem (State.putDecode2Execute_mem _ _) fun _ => rfl
    · cases h
      exact State.andThen_keeps State.mem (State.putDecode2FetchStall_mem _) fun _ => rfl

theorem rejectOp_mem {code : Poison} {pc : Word} (h : rejectOp code pc s = .next t) : t.mem = s.mem := by
  unfold rejectOp at h
  split at h
  · exact issueOp_mem h
  · split at h <;> cases h <;> rfl

theorem decodeWork_mem (h : decodeWork s = .next t) (ha : s.acting = .decode) : t.mem = s.mem := by
  unfold decodeWork at h
  split at h
  · cases h; exact s.takePacket_mem
  · rw [← s.takePacket_mem]
    split at h
    · rw [exec_decode (by rw [State.takePacket_acting, ha])] at h
      exact issueOp_mem h
    · exact rejectOp_mem h
    · exact rejectOp_mem h

theorem decodeOperate_mem (h : decodeOperate s = .next t) (ha : s.acting = .decode) : t.mem = s.mem := by
  unfold decodeOperate at h
  dsimp only at h
  split at h
  · cases h; rfl
  · exact (decodeWork_mem h ha).trans rfl

theorem decodeStage_mem (h : decodeStage s = .next t) : t.mem = s.mem := by
  refine clockStage_keeps State.mem ?_ (fun hop => ?_) h
  · rfl
  · exact (decodeOperate_mem hop rfl).trans rfl

theorem executeOp_mem {f : InstrRec → InstrRec} (h : executeOp f s = .next t) : t.mem = s.mem := by
  unfold executeOp at h
  split at h
  · cases h
  · cases h
    exact State.andThen_keeps State.mem (State.putExecute2Memory_mem _ _) fun _ => rfl

theorem executeWork_mem (h : executeWork s = .next t) (ha : s.acting = .execute) : t.mem = s.mem := by
  unfold executeWork at h
  split at h
  · cases h; rfl
  · split at h
    · rw [exec_execute ha] at h
      exact executeOp_mem h
    · exact executeOp_mem h

theorem executeOperate_mem (h : executeOperate s = .next t) (ha : s.acting = .execute) : t.mem = s.mem := by
  unfold executeOperate at h
  dsimp only at h
  split at h
  · cases h; exact State.validateAll_mem _ _
  · exact (executeWork_mem h ha).trans rfl

theorem executeStage_mem (h : executeStage s = .next t) : t.mem = s.mem := by
  refine clockStage_keeps State.mem ?_ (fun hop => ?_) h
  · rfl
  · exact (executeOperate_mem hop rfl).trans rfl

/-! ### Memory -/

/-- What may happen to memory from `s` on within a cycle: nothing, a fatal, or one store, whose record of this cycle
waits in P7 (20_memory R69). -/
inductive State.MovesMemory (s t : State) : Prop
  | unchanged (hmem : t.mem = s.mem)
  | faulted (hfatal : t.faultedRun)
  | stored (i : Instr) (r : InstrRec) (hlive : r.body = .live i) (hstore : i.isStore = true)
      (hmem : t.mem = memStored s.config s.mem r.out.memAddr i.memSize (lowWord r.vSrc2))
      (hwaits : ⟨s.cycle, r⟩ ∈ t.memory2Writeback)

/-- Where the cycle began does not matter: what counts is configuration, cycle and memory. -/
theorem State.MovesMemory.of_start {u : State} (h : u.MovesMemory t) (hretired : u.retired = s.retired)
    (hmem : u.mem = s.mem) : s.MovesMemory t := by
  have hconfig : u.config = s.config := congrArg RetiredPart.config hretired
  have hcycle : u.cycle = s.cycle := congrArg RetiredPart.cycle hretired
  cases h with
  | unchanged h => exact .unchanged (h.trans hmem)
  | faulted h => exact .faulted h
  | stored i r hlive hstore h hwaits =>
    rw [hconfig, hmem] at h
    rw [hcycle] at hwaits
    exact .stored i r hlive hstore h hwaits

/-- What leaves memory alone, and this cycle's entries in P7, keeps the account of a run that has not ended. -/
theorem State.MovesMemory.then_kept {u : State} (h : s.MovesMemory u) (hrun : u.runStatus = .running)
    (hmem : t.mem = u.mem) (hkept : ∀ e ∈ u.memory2Writeback, e.cycleWritten = s.cycle → e ∈ t.memory2Writeback) :
    s.MovesMemory t := by
  cases h with
  | unchanged h => exact .unchanged (hmem.trans h)
  | faulted h =>
    obtain ⟨f, hf⟩ := h
    cases hrun.symm.trans hf
  | stored i r hlive hstore h hwaits => exact .stored i r hlive hstore (hmem.trans h) (hkept _ hwaits rfl)

theorem accessAndForward_movesMemory {i : Instr} {r : InstrRec} (hlive : r.body = .live i) (missed : Bool) (s : State) :
    s.MovesMemory (s.accessAndForward (accessOf i) r missed) := by
  unfold State.accessAndForward
  split
  · exact .unchanged rfl
  · next r' m haccess =>
    have hmem : ((({ s with mem := m }).putMemory2Writeback r').andThen
        fun u => if missed then u else { u with memStatus := some (.memDone r.pc) }).mem = m :=
      State.andThen_keeps State.mem (State.putMemory2Writeback_mem _ _) fun _ => by cases missed <;> rfl
    rcases accessOf_ok haccess with hm | ⟨hstore, rfl, hm⟩
    · exact .unchanged (hmem.trans hm)
    · rcases putMemory2Writeback_cases r' { s with mem := m } with ⟨-, hput⟩ | hput
      · refine .stored i r' hlive hstore (hmem.trans hm) ?_
        rw [State.andThen_keeps State.memory2Writeback (congrArg State.memory2Writeback hput)
          fun _ => by cases missed <;> rfl]
        exact List.mem_append_right _ (List.mem_singleton.mpr rfl)
      · rw [hput, State.andThen_ended (by simp)]
        exact .faulted ⟨_, rfl⟩

theorem State.andThen_movesMemory {u : State} {f : State → State} (hretired : u.retired = s.retired)
    (hmem : u.mem = s.mem) (hf : u.MovesMemory (f u)) : s.MovesMemory (u.andThen f) := by
  by_cases hrun : u.runStatus = .running
  · rw [State.andThen_running hrun]
    exact hf.of_start hretired hmem
  · rw [State.andThen_ended hrun]
    exact .unchanged hmem

theorem memoryOp_movesMemory {i : Instr} {r : InstrRec} {q : Port InstrRec} (hlive : r.body = .live i)
    (hread : portRead s.cycle s.execute2Memory = some (r, q)) (h : memoryOp i (accessOf i) s = .next t) :
    s.MovesMemory t := by
  rw [memoryOp, hread] at h
  cases h
  refine State.andThen_movesMemory ?_ ?_ (accessAndForward_movesMemory hlive _ _)
  · split
    · exact State.broadcastFlush_retired _ _ _
    · rfl
  · split
    · exact State.broadcastFlush_mem _ _ _
    · rfl

theorem memoryWork_movesMemory (h : memoryWork s = .next t) (ha : s.acting = .memory) : s.MovesMemory t := by
  unfold memoryWork at h
  split at h
  · cases h; exact .unchanged rfl
  · next r q hread =>
    split at h
    · next i hlive =>
      rw [exec_memory ha] at h
      exact memoryOp_movesMemory hlive hread h
    · cases h; exact .unchanged rfl
    · cases h; exact .unchanged rfl

theorem memoryOperate_movesMemory (h : memoryOperate s = .next t) (ha : s.acting = .memory) : s.MovesMemory t := by
  unfold memoryOperate at h
  dsimp only at h
  split at h
  · cases h; exact .unchanged (State.validateAll_mem _ _)
  · exact (memoryWork_movesMemory h ha).of_start rfl rfl

theorem memoryStage_movesMemory (h : memoryStage s = .next t) : s.MovesMemory t := by
  unfold memoryStage clockStage at h
  dsimp only at h
  split at h
  · cases h; exact .unchanged rfl
  · exact (memoryOperate_movesMemory h rfl).of_start rfl rfl

/-! ### Writeback -/

/-- Writeback leaves memory alone and removes the oldest entry of P7 (43_stages R210). -/
theorem retireOp_frame {b : Body} {r : InstrRec} {q : Port InstrRec}
    (hread : portRead s.cycle s.memory2Writeback = some (r, q)) (h : retireOp b s = .next t) :
    t.mem = s.mem ∧ t.memory2Writeback = q := by
  rw [retireOp, hread] at h
  cases h
  exact ⟨State.andThen_keeps State.mem (State.checkRecord_mem _ _) fun _ => rfl,
    State.andThen_keeps State.memory2Writeback (State.checkRecord_memory2Writeback _ _) fun _ => rfl⟩

/-- The entry a read removes was written in an earlier cycle (40_port_fabric R103). -/
theorem mem_rest_of_portRead {α : Type} {n : Nat} {p q : Port α} {v : α} (hread : portRead n p = some (v, q))
    {e : Entry α} (he : e ∈ p) (hfresh : e.cycleWritten = n) : e ∈ q := by
  obtain ⟨first, rfl, -, hready⟩ := portRead_some hread
  rcases List.mem_cons.mp he with rfl | hrest
  · omega
  · exact hrest

theorem writebackStage_frame (h : writebackStage s = .next t) :
    t.mem = s.mem ∧ ∀ e ∈ s.memory2Writeback, e.cycleWritten = s.cycle → e ∈ t.memory2Writeback := by
  rcases writebackStage_cases h with rfl | ⟨r, q, hread, hretire⟩
  · exact ⟨rfl, fun _ he _ => he⟩
  · obtain ⟨hmem, hport⟩ := retireOp_frame (s := { s with acting := .writeback }) hread hretire
    exact ⟨hmem, fun e he hfresh => hport ▸ mem_rest_of_portRead hread he hfresh⟩

/-! ### The cycle and the step -/

/-- Fetch, Decode and Execute of a cycle leave memory and the retired part alone. -/
theorem beforeMemory_frame (h : andThenStage (andThenStage (fetchStage s.beginCycle) decodeStage) executeStage = .next t) :
    t.retired = s.retired ∧ t.mem = s.mem :=
  ⟨andThenStage_retired (andThenStage_retired (fun hf => (fetchStage_retired hf).trans s.beginCycle_retired)
      decodeStage_retired) executeStage_retired h,
    andThenStage_keeps State.mem (andThenStage_keeps State.mem (fun hf => (fetchStage_mem hf).trans s.beginCycle_mem)
      decodeStage_mem) executeStage_mem h⟩

theorem cycleStep_movesMemory (h : cycleStep s = .next t) : s.MovesMemory t := by
  obtain ⟨w, hw, hwriteback⟩ := andThenStage_next h
  obtain ⟨m, hm, hmemory⟩ := andThenStage_next hw
  obtain ⟨hretired, hmem⟩ := beforeMemory_frame hm
  have hmoved : s.MovesMemory w ∧ w.retired = s.retired := by
    rcases hmemory with ⟨-, hstage⟩ | ⟨-, rfl⟩
    · exact ⟨(memoryStage_movesMemory hstage).of_start hretired hmem, (memoryStage_retired hstage).trans hretired⟩
    · exact ⟨.unchanged hmem, hretired⟩
  obtain ⟨hmoved, hkept⟩ := hmoved
  have hcycle : w.cycle = s.cycle := congrArg RetiredPart.cycle hkept
  rcases hwriteback with ⟨hrun, hstage⟩ | ⟨-, rfl⟩
  · obtain ⟨hwmem, hport⟩ := writebackStage_frame hstage
    exact hmoved.then_kept hrun hwmem (hcycle ▸ hport)
  · exact hmoved

theorem step_movesMemory (h : step s = .next t) : s.MovesMemory t := by
  rcases step_cases s with ⟨-, hstep⟩ | ⟨-, -, hstep⟩ | ⟨-, -, hstep⟩
  · cases hstep.symm.trans h
    exact .unchanged rfl
  · cases hstep.symm.trans h
    exact .unchanged rfl
  · obtain ⟨u, hu, ⟨hrun, hend⟩ | ⟨-, rfl⟩⟩ := andThenStage_next (hstep.symm.trans h)
    · cases hend
      exact (cycleStep_movesMemory hu).then_kept hrun u.endCycle_mem
        fun e he _ => u.endCycle_memory2Writeback.symm ▸ he
    · exact cycleStep_movesMemory hu

end Stages

/-- Settles O59: only Memory's store changes memory, at its own addresses, and Writeback cannot read its record in the
cycle in which it was forwarded. -/
theorem onlyStoresChangeMemory : Obligations.OnlyStoresChangeMemory := by
  intro s t h hnoFatal a hchanged
  cases step_movesMemory h with
  | unchanged hmem => exact absurd (by rw [hmem]) hchanged
  | faulted hfatal => exact absurd hfatal hnoFatal
  | stored i r hlive hstore hmem hwaits =>
    have haddr : a ∈ accessAddrs r.out.memAddr i.memSize := by
      by_contra hother
      exact hchanged (by rw [hmem, readByte_memStored_other s.config s.mem _ hother])
    exact ⟨_, hwaits, rfl, i, hlive, hstore, mem_accessAddrs.mp haddr⟩

end Sys2Proof.Machine
end

section
/-!
SUPPORT. The encoding (30_encoding R81 to R87, 95_test_vectors 1.2): the fields of the packed words, what the register
fields of a descriptor stand for, and when a descriptor is ill-formed.
-/

namespace Sys2Proof

/-! ### Fields of appended words -/

section Append
variable {v w start len : Nat} {hi : BitVec v} {lo : BitVec w} {field : BitVec len}

/-- A field above the last part of a word is a field of the parts before it. -/
theorem field_above (h : hi.extractLsb' (start - w) len = field) (hw : w ≤ start := by decide) :
    (hi ++ lo).extractLsb' start len = field := by
  rw [BitVec.extractLsb'_append_eq_of_le hw, h]

/-- The last part of a word is its lowest field. -/
theorem field_last : (hi ++ lo).extractLsb' 0 w = lo := by
  rw [BitVec.extractLsb'_append_eq_of_add_le (Nat.zero_add w).le, BitVec.extractLsb'_eq_self]

end Append

/-! ### Fields of the fixture's words (95_test_vectors 1.2) -/

section FixtureFields
variable (rs rt rd sa : BitVec 5) (fn op : BitVec 6) (imm : BitVec 16) (idx : BitVec 26)

@[simp] theorem packR_op : (packR rs rt rd sa fn).extractLsb' 26 6 = 0 :=
  field_above (field_above (field_above (field_above (field_above BitVec.extractLsb'_eq_self))))

@[simp] theorem packR_rs : (packR rs rt rd sa fn).extractLsb' 21 5 = rs :=
  field_above (field_above (field_above (field_above field_last)))

@[simp] theorem packR_rt : (packR rs rt rd sa fn).extractLsb' 16 5 = rt :=
  field_above (field_above (field_above field_last))

@[simp] theorem packR_rd : (packR rs rt rd sa fn).extractLsb' 11 5 = rd :=
  field_above (field_above field_last)

@[simp] theorem packR_sa : (packR rs rt rd sa fn).extractLsb' 6 5 = sa :=
  field_above field_last

@[simp] theorem packR_fn : (packR rs rt rd sa fn).extractLsb' 0 6 = fn :=
  field_last

/-- The three fields between rs and fn, which the row of jr wants to be zero together. -/
theorem extractLsb'_rt_rd_sa (w : Word) :
    w.extractLsb' 6 15 = w.extractLsb' 16 5 ++ w.extractLsb' 11 5 ++ w.extractLsb' 6 5 := by
  rw [BitVec.extractLsb'_append_extractLsb'_eq_extractLsb' (by decide),
    BitVec.extractLsb'_append_extractLsb'_eq_extractLsb' (by decide)]

@[simp] theorem packR_rt_rd_sa : (packR rs rt rd sa fn).extractLsb' 6 15 = rt ++ rd ++ sa := by
  rw [extractLsb'_rt_rd_sa, packR_rt, packR_rd, packR_sa]

@[simp] theorem packI_op : (packI op rs rt imm).extractLsb' 26 6 = op :=
  field_above (field_above (field_above BitVec.extractLsb'_eq_self))

@[simp] theorem packI_rs : (packI op rs rt imm).extractLsb' 21 5 = rs :=
  field_above (field_above field_last)

@[simp] theorem packI_rt : (packI op rs rt imm).extractLsb' 16 5 = rt :=
  field_above field_last

@[simp] theorem packI_imm : (packI op rs rt imm).extractLsb' 0 16 = imm :=
  field_last

@[simp] theorem packJ_op : (packJ op idx).extractLsb' 26 6 = op :=
  field_above BitVec.extractLsb'_eq_self

@[simp] theorem packJ_idx : (packJ op idx).extractLsb' 0 26 = idx :=
  field_last

end FixtureFields

/-! ### Fields of descriptor words (30_encoding R85) -/

@[simp] theorem unpackReg_packReg (r : Option RegIdx) : unpackReg (packReg r) = r.map Fin.val := by
  cases r with
  | none => rfl
  | some r =>
    have hval : (packReg (some r)).toNat = r.val + 1 := Nat.mod_eq_of_lt (by omega)
    have hne : packReg (some r) ≠ 0 := fun h => by simp [h] at hval
    rw [unpackReg, if_neg hne, hval]
    rfl

/-- Log2 of a legal access size fits its field (20_memory R65). -/
theorem two_pow_packSize {n : Nat} (h : legalSize n = true) : 2 ^ (packSize n).toNat = n := by
  obtain rfl | rfl | rfl := Machine.legalSize_iff.mp h
  all_goals rfl

/-- A descriptor word stands for the class vector, size and registers packed into it. -/
@[simp] theorem unpackDescriptor_packHead (classVector : BitVec 3) (size : BitVec 2) (src1 src2 dst : Option RegIdx)
    (op : Word) :
    unpackDescriptor (packHead classVector size src1 src2 dst) op =
      { src1 := src1.map Fin.val, src2 := src2.map Fin.val, dst := dst.map Fin.val
        isLoad := classVector.getLsbD 2, isStore := classVector.getLsbD 1, isJump := classVector.getLsbD 0
        memSize := 2 ^ size.toNat, op := op } := by
  have hsrc1 : (packHead classVector size src1 src2 dst).extractLsb' 3 6 = packReg src1 := field_above field_last
  have hsrc2 : (packHead classVector size src1 src2 dst).extractLsb' 9 6 = packReg src2 :=
    field_above (field_above field_last)
  have hdst : (packHead classVector size src1 src2 dst).extractLsb' 15 6 = packReg dst :=
    field_above (field_above (field_above field_last))
  have hsize : (packHead classVector size src1 src2 dst).extractLsb' 21 2 = size :=
    field_above (field_above (field_above (field_above field_last)))
  have hclass : ∀ k < 3, (packHead classVector size src1 src2 dst).getLsbD k = classVector.getLsbD k := fun k hk => by
    rw [packHead, BitVec.getLsbD_append, if_pos hk]
  rw [unpackDescriptor, hsrc1, hsrc2, hdst, hsize, hclass 2 (by decide), hclass 1 (by decide), hclass 0 (by decide),
    unpackReg_packReg, unpackReg_packReg, unpackReg_packReg]

/-! ### The register fields of a descriptor (30_encoding R86) -/

/-- A register field that passes the check is the number of its register. -/
theorem checkReg_eq_some_iff {field : Option Nat} {r : Option RegIdx} :
    checkReg field = some r ↔ r.map Fin.val = field := by
  cases field with
  | none => cases r <;> simp [checkReg]
  | some n =>
    by_cases hn : n < 33
    · cases r <;> simp [checkReg, hn, Fin.ext_iff, eq_comm]
    · cases r with
      | none => simp [checkReg, hn]
      | some r => simpa [checkReg, hn] using (by omega : r.val ≠ n)

@[simp] theorem checkReg_map_val (r : Option RegIdx) : checkReg (r.map Fin.val) = some r :=
  checkReg_eq_some_iff.mpr rfl

/-- A register field that fails the check names an index outside 0..32. -/
theorem checkReg_eq_none_iff {field : Option Nat} : checkReg field = none ↔ ∃ n, 32 < n ∧ field = some n := by
  cases field with
  | none => simp [checkReg]
  | some n => simp [checkReg, Nat.succ_le_iff]

/-! ### Ill-formed descriptors and the class of a well-formed one (30_encoding R85, R86) -/

theorem legalSize_eq_false_iff {n : Nat} : legalSize n = false ↔ n ≠ 1 ∧ n ≠ 2 ∧ n ≠ 4 := by
  rw [← Bool.not_eq_true, Machine.legalSize_iff, not_or, not_or]

namespace Descriptor
variable {d : Descriptor} {s1 s2 t : Option RegIdx} {i : Instr}

/-- A register field names an index outside 0..32. -/
def hasBadReg (d : Descriptor) : Prop := ∃ n, 32 < n ∧ (d.src1 = some n ∨ d.src2 = some n ∨ d.dst = some n)

/-- The register fields name the given registers. -/
def names (d : Descriptor) (s1 s2 t : Option RegIdx) : Prop :=
  checkReg d.src1 = some s1 ∧ checkReg d.src2 = some s2 ∧ checkReg d.dst = some t

theorem hasBadReg_iff : d.hasBadReg ↔ checkReg d.src1 = none ∨ checkReg d.src2 = none ∨ checkReg d.dst = none := by
  simp only [hasBadReg, checkReg_eq_none_iff, and_or_left, exists_or]

theorem names_of_not_hasBadReg (h : ¬ d.hasBadReg) : ∃ s1 s2 t, d.names s1 s2 t := by
  simp only [hasBadReg_iff, not_or, ← ne_eq, Option.ne_none_iff_exists'] at h
  obtain ⟨⟨s1, h1⟩, ⟨s2, h2⟩, ⟨t, ht⟩⟩ := h
  exact ⟨s1, s2, t, h1, h2, ht⟩

theorem not_hasBadReg_of_names (h : d.names s1 s2 t) : ¬ d.hasBadReg := by
  obtain ⟨h1, h2, ht⟩ := h
  simp [hasBadReg_iff, h1, h2, ht]

theorem classify_of_hasBadReg (h : d.hasBadReg) : classify d = none := by
  unfold classify
  split
  · next h1 h2 ht => exact absurd h (not_hasBadReg_of_names ⟨h1, h2, ht⟩)
  · rfl

/-- With legal registers a descriptor is ill-formed by its class vector or by its size. -/
theorem classify_eq_none_iff_of_names (h : d.names s1 s2 t) :
    classify d = none ↔ (d.isLoad = true ∧ d.isStore = true) ∨ (d.isLoad = true ∧ d.isJump = true) ∨
      (d.isStore = true ∧ d.isJump = true) ∨ ((d.isLoad = true ∨ d.isStore = true) ∧ legalSize d.memSize = false) := by
  obtain ⟨h1, h2, ht⟩ := h
  simp only [classify, h1, h2, ht]
  split <;> simp [*]

/-- The instruction of a class vector, with the given registers and the descriptor's size and `op`. -/
inductive OfClass (d : Descriptor) (s1 s2 t : Option RegIdx) : Instr → Prop
  | other (hload : d.isLoad = false) (hstore : d.isStore = false) (hjump : d.isJump = false) :
      OfClass d s1 s2 t (.other s1 s2 t d.op)
  | jump (hload : d.isLoad = false) (hstore : d.isStore = false) (hjump : d.isJump = true) :
      OfClass d s1 s2 t (.jump s1 s2 t d.op)
  | store (hload : d.isLoad = false) (hstore : d.isStore = true) (hjump : d.isJump = false)
      (hsize : legalSize d.memSize = true) : OfClass d s1 s2 t (.store s1 s2 t d.memSize d.op)
  | load (hload : d.isLoad = true) (hstore : d.isStore = false) (hjump : d.isJump = false)
      (hsize : legalSize d.memSize = true) : OfClass d s1 s2 t (.load s1 s2 t d.memSize d.op)

/-- A well-formed descriptor becomes the instruction of its class vector. -/
theorem classify_some (h : classify d = some i) : ∃ s1 s2 t, d.names s1 s2 t ∧ OfClass d s1 s2 t i := by
  unfold classify at h
  split at h
  · next s1 s2 t h1 h2 ht =>
    refine ⟨s1, s2, t, ⟨h1, h2, ht⟩, ?_⟩
    split at h
    · next hload hstore hjump => cases h; exact .other hload hstore hjump
    · next hload hstore hjump => cases h; exact .jump hload hstore hjump
    · next hload hstore hjump =>
      obtain ⟨hsize, ⟨⟩⟩ := Option.ite_none_right_eq_some.mp h
      exact .store hload hstore hjump hsize
    · next hload hstore hjump =>
      obtain ⟨hsize, ⟨⟩⟩ := Option.ite_none_right_eq_some.mp h
      exact .load hload hstore hjump hsize
    all_goals cases h
  · cases h

/-- The instruction keeps the class vector, and the size where the class has one (30_encoding R82). -/
theorem OfClass.fields (h : OfClass d s1 s2 t i) :
    i.isLoad = d.isLoad ∧ i.isStore = d.isStore ∧ i.isJump = d.isJump ∧ i.wellFormed = true ∧
      (d.isLoad = true ∨ d.isStore = true → i.memSize = d.memSize) := by
  cases h with
  | other hload hstore hjump | jump hload hstore hjump =>
    exact ⟨hload.symm, hstore.symm, hjump.symm, rfl, by simp [hload, hstore]⟩
  | store hload hstore hjump hsize | load hload hstore hjump hsize =>
    exact ⟨hload.symm, hstore.symm, hjump.symm, hsize, fun _ => rfl⟩

theorem OfClass.registers (h : OfClass d s1 s2 t i) : i.src1 = s1 ∧ i.src2 = s2 ∧ i.dst = t := by
  cases h <;> exact ⟨rfl, rfl, rfl⟩

theorem classify_eq_none_iff : classify d = none ↔
    (d.isLoad = true ∧ d.isStore = true) ∨ (d.isLoad = true ∧ d.isJump = true) ∨
      (d.isStore = true ∧ d.isJump = true) ∨
      ((d.isLoad = true ∨ d.isStore = true) ∧ d.memSize ≠ 1 ∧ d.memSize ≠ 2 ∧ d.memSize ≠ 4) ∨ d.hasBadReg := by
  by_cases hbad : d.hasBadReg
  · simp [hbad, classify_of_hasBadReg]
  · obtain ⟨s1, s2, t, hnames⟩ := names_of_not_hasBadReg hbad
    rw [classify_eq_none_iff_of_names hnames, legalSize_eq_false_iff]
    simp [hbad]

end Descriptor

/-- The instruction of a well-formed descriptor has the descriptor's class vector, registers and size. -/
theorem classify_some_fields {d : Descriptor} {i : Instr} (h : classify d = some i) :
    i.isLoad = d.isLoad ∧ i.isStore = d.isStore ∧ i.isJump = d.isJump ∧ i.wellFormed = true ∧
      i.src1.map Fin.val = d.src1 ∧ i.src2.map Fin.val = d.src2 ∧ i.dst.map Fin.val = d.dst ∧
      (d.isLoad = true ∨ d.isStore = true → i.memSize = d.memSize) := by
  obtain ⟨s1, s2, t, ⟨h1, h2, ht⟩, hclass⟩ := d.classify_some h
  obtain ⟨hload, hstore, hjump, hwf, hsize⟩ := hclass.fields
  obtain ⟨rfl, rfl, rfl⟩ := hclass.registers
  exact ⟨hload, hstore, hjump, hwf, checkReg_eq_some_iff.mp h1, checkReg_eq_some_iff.mp h2,
    checkReg_eq_some_iff.mp ht, hsize⟩

/-! ### DECODE of a launch (30_encoding R81, R86, R87) -/

/-- DECODE of an open instruction set: a rejection is passed on, a descriptor is checked. -/
theorem decodeWord_external (key : Nat) (raw pc : Word) :
    decodeWord (.external key) raw pc =
      match Config.decode key raw pc with
      | .invalid => .invalid
      | .refused => .refused
      | .ok d => (classify d).elim .invalid .instr := by
  unfold decodeWord
  dsimp only
  cases Config.decode key raw pc with
  | invalid | refused => rfl
  | ok d => exact Decoded.ofOption_eq_elim _

/-! ### Decoding an encoding -/

/-- Decoding is the inverse of encoding on every row of the table (30_encoding R85, 95_test_vectors 1.2). -/
theorem decode_encode {i : Instr} (hi : i.wellFormed = true) : decode (encode i) = some i := by
  cases i with
  | other | jump => simp [encode, decode, classify]
  | store _ _ _ n | load _ _ _ n =>
    have hn : legalSize n = true := hi
    simp [encode, decode, classify, two_pow_packSize hn, hn]
  | addu | sll | jr | addiu | beq | bne | j | jal | lw | sw => simp [encode, decode, decodeFixture]

/-- Settles O2: the decoder reads back each field the encoder packs, and no earlier row of the fixture's table takes
the word. -/
theorem decodeEncodeAgree : Obligations.DecodeEncodeAgree :=
  ⟨fun _ hi => decode_encode hi, fun _ _ _ => Decoded.ofOption_eq_elim _⟩

/-- Settles O4: the descriptor's checks are the branches of `classify`, DECODE of a launch is the check after the open
parameter or the fixture's table, and the columns of the fixture's rows are those of its operand forms. -/
theorem descriptorDecidesInstruction : Obligations.DescriptorDecidesInstruction := by
  refine ⟨fun d => d.classify_eq_none_iff, decodeWord_external, fun d i => classify_some_fields,
    fun raw pc => Decoded.ofOption_eq_elim _, ?_⟩
  intro columns rs rt rd sa imm idx s t d
  and_intros <;> rfl

/-- Settles O1: each word is evaluated; they are closed facts about the two tables. -/
theorem tableWordsDecode : Obligations.TableWordsDecode := by
  unfold Obligations.TableWordsDecode
  decide

end Sys2Proof
end

section
/-!
The port fabric (40_port_fabric R102 to R106): what a read and a flush see of the write of their own cycle, and what a
first and a second write of a cycle do to the state.
-/

namespace Sys2Proof.Machine

section Queue
variable {α : Type} {t : Nat} {q : Port α}

/-- A second write of a cycle is refused (40_port_fabric R102). -/
theorem portWrite_of_written (h : ¬ noWriteYet t q) (v : α) : portWrite t v q = none := by
  obtain ⟨e, he, ht⟩ : ∃ e ∈ q, e.cycleWritten = t := by simpa [noWriteYet] using h
  exact portWrite_of_taken he ht v

/-- A read does not see the write of its own cycle, which stays in the queue (40_port_fabric R106). -/
theorem portRead_written_same (t : Nat) (v : α) (q : Port α) :
    portRead t (written t v q) = (portRead t q).map fun p => (p.1, written t v p.2) := by
  cases q with
  | nil => exact portRead_cons_fresh le_rfl []
  | cons e q =>
    rcases Nat.lt_or_ge e.cycleWritten t with hready | hfresh
    · rw [written, List.cons_append, portRead_cons_ready hready, portRead_cons_ready hready]; rfl
    · rw [written, List.cons_append, portRead_cons_fresh hfresh, portRead_cons_fresh hfresh]; rfl

/-- A write that is alone in its queue is read one cycle later (40_port_fabric R106). -/
theorem portRead_written_next (t : Nat) (v : α) : portRead (t + 1) (written t v []) = some (v, []) :=
  portRead_cons_ready (Nat.lt_succ_self t) []

/-- A flush removes nothing that was written in its own cycle (40_port_fabric R105). -/
theorem portFlushed_written (t : Nat) (v : α) (q : Port α) : portFlushed t (written t v q) = portFlushed t q := by
  simp [portFlushed, written]

/-- A flush keeps the entry of its own cycle (40_port_fabric R105). -/
theorem portKept_written (t : Nat) (v : α) (q : Port α) : portKept t (written t v q) = written t v (portKept t q) := by
  simp [portKept, written]

end Queue

/-- Settles O5: a write appends, and a read of its cycle looks only at the entry in front of it. -/
theorem portWriteVisibleNextCycle : Obligations.PortWriteVisibleNextCycle := by
  intro α t v q q' h
  obtain ⟨rfl, -⟩ := portWrite_some h
  refine ⟨portRead_written_same t v q, ?_⟩
  rintro rfl
  exact portRead_written_next t v

/-- Settles O6: the older entries are all ready, so only the entry of the flush's cycle is left. -/
theorem portFlushKeepsSameCycleEntry : Obligations.PortFlushKeepsSameCycleEntry := by
  intro α t v q q' hready h
  obtain ⟨rfl, -⟩ := portWrite_some h
  have hkept : portKept t (written t v q) = written t v [] := by rw [portKept_written, portKept_of_ready hready]
  refine ⟨(portFlushed_written t v q).trans (portFlushed_of_ready hready), hkept, ?_, ?_⟩
  · exact (congrArg (portRead t) hkept).trans (portRead_written_same t v [])
  · exact (congrArg (portRead (t + 1)) hkept).trans (portRead_written_next t v)

/-! ### A first write of a cycle into the state (40_port_fabric R102) -/

section Put
variable {s : State}

theorem putFetch2Decode_of_free {p : IfIdData} (h : noWriteYet s.cycle s.fetch2Decode) :
    s.putFetch2Decode p = { s with fetch2Decode := written s.cycle p s.fetch2Decode } := by
  rw [State.putFetch2Decode, portWrite_of_free h]; rfl

theorem putDecode2FetchStall_of_free (h : noWriteYet s.cycle s.decode2FetchStall) :
    s.putDecode2FetchStall = { s with decode2FetchStall := written s.cycle true s.decode2FetchStall } := by
  rw [State.putDecode2FetchStall, portWrite_of_free h]; rfl

theorem putDecode2Execute_of_free {r : InstrRec} (h : noWriteYet s.cycle s.decode2Execute) :
    s.putDecode2Execute r = { s with decode2Execute := written s.cycle r s.decode2Execute } := by
  rw [State.putDecode2Execute, portWrite_of_free h]; rfl

theorem putExecute2Memory_of_free {r : InstrRec} (h : noWriteYet s.cycle s.execute2Memory) :
    s.putExecute2Memory r = { s with execute2Memory := written s.cycle r s.execute2Memory } := by
  rw [State.putExecute2Memory, portWrite_of_free h]; rfl

theorem putMemory2Writeback_of_free {r : InstrRec} (h : noWriteYet s.cycle s.memory2Writeback) :
    s.putMemory2Writeback r = { s with memory2Writeback := written s.cycle r s.memory2Writeback } := by
  rw [State.putMemory2Writeback, portWrite_of_free h]; rfl

end Put

/-- Settles O7: a first write of the cycle is the port's own lemma; a second one is refused by the queue, and each
port's write answers the refusal by raising its own name. -/
theorem secondPortWriteIsFatal : Obligations.SecondPortWriteIsFatal := by
  intro s p r a
  refine ⟨putFetch2Decode_of_free, fun h => ?_, putDecode2FetchStall_of_free, fun h => ?_,
    putDecode2Execute_of_free, fun h => ?_, putExecute2Memory_of_free, fun h => ?_,
    putMemory2Writeback_of_free, fun h => ?_, putFetchFlush_of_free, fun h => ?_,
    putDecodeFlush_of_free, fun h => ?_, putExecuteFlush_of_free, fun h => ?_,
    putMemoryFlush_of_free, fun h => ?_, putFetchTarget_of_free, fun h => ?_⟩
  all_goals
    simp only [State.putFetch2Decode, State.putDecode2FetchStall, State.putDecode2Execute, State.putExecute2Memory,
      State.putMemory2Writeback, State.putFetchFlush, State.putDecodeFlush, State.putExecuteFlush,
      State.putMemoryFlush, State.putFetchTarget, portWrite_of_written h]

end Sys2Proof.Machine
end

section
/-!
SUPPORT. The conditions of a legal BTB configuration (41_branch_predictor R121), and what they give: the set and the
tag of an address by division (R123, R124).
-/

namespace Sys2Proof

/-- Condition `n` of 41_branch_predictor R121; the rule has none past the sixth. -/
def CoreConfig.Meets (c : CoreConfig) (n : Nat) : Prop :=
  (n = 1 → 0 < c.btbSize ∧ 0 < c.btbWays) ∧ (n = 2 → c.btbSize % c.btbWays = 0) ∧
  (n = 3 → ∃ k, c.btbSize / c.btbWays = 2 ^ k) ∧ (n = 4 → 1 ≤ c.predictionBits ∧ c.predictionBits ≤ 32) ∧
  (n = 5 → c.predictionLevel ≤ 16) ∧ (n = 6 → 1 ≤ c.branchIpBits ∧ c.branchIpBits ≤ 32)

theorem isPowerOfTwo_iff {n : Nat} : isPowerOfTwo n = true ↔ ∃ k, n = 2 ^ k := by
  simp only [isPowerOfTwo, Bool.and_eq_true, bne_iff_ne, beq_iff_eq]
  constructor
  · rintro ⟨-, h⟩
    exact ⟨_, h.symm⟩
  · rintro ⟨k, rfl⟩
    simp

namespace CoreConfig
variable {c : CoreConfig}

/-- The reported number is that of a failing condition (41_branch_predictor R121). -/
theorem not_meets_of_firstFailure {n : Nat} (h : c.firstFailure = some n) : ¬ c.Meets n := by
  rintro ⟨h1, h2, h3, h4, h5, h6⟩
  unfold firstFailure at h
  split at h
  · next hfail => cases h; exact hfail (h1 rfl)
  split at h
  · next hfail => cases h; exact hfail (h2 rfl)
  split at h
  · next hfail => cases h; exact hfail (isPowerOfTwo_iff.mpr (h3 rfl))
  split at h
  · next hfail => cases h; exact hfail (h4 rfl)
  split at h
  · next hfail => cases h; exact hfail (h5 rfl)
  split at h
  · next hfail => cases h; exact hfail (h6 rfl)
  · cases h

/-- A legal configuration meets the six conditions (41_branch_predictor R121). -/
theorem legal_iff : c.legal = true ↔
    (0 < c.btbSize ∧ 0 < c.btbWays) ∧ c.btbSize % c.btbWays = 0 ∧ (∃ k, c.btbSize / c.btbWays = 2 ^ k) ∧
      (1 ≤ c.predictionBits ∧ c.predictionBits ≤ 32) ∧ c.predictionLevel ≤ 16 ∧
      (1 ≤ c.branchIpBits ∧ c.branchIpBits ≤ 32) := by
  simp only [legal, beq_iff_eq, firstFailure, ite_eq_iff, reduceCtorEq, and_false, false_or, and_true, ne_eq,
    not_not, isPowerOfTwo_iff]

/-- No number is reported exactly when every condition holds (41_branch_predictor R121). -/
theorem firstFailure_eq_none_iff : c.firstFailure = none ↔ ∀ n, c.Meets n := by
  constructor
  · intro h n
    obtain ⟨h1, h2, h3, h4, h5, h6⟩ := legal_iff.mp (beq_iff_eq.mpr h)
    exact ⟨fun _ => h1, fun _ => h2, fun _ => h3, fun _ => h4, fun _ => h5, fun _ => h6⟩
  · intro h
    cases hfail : c.firstFailure with
    | none => rfl
    | some n => exact absurd (h n) (not_meets_of_firstFailure hfail)

theorem meanState_pos (c : CoreConfig) : 0 < c.meanState := Nat.two_pow_pos _

theorem tableSize_pos (c : CoreConfig) : 0 < c.tableSize := Nat.two_pow_pos _

/-! ### The geometry of a legal configuration -/

section Legal
variable (hc : c.legal = true)
include hc

theorem btbWays_pos_of_legal : 0 < c.btbWays := by
  obtain ⟨⟨-, hways⟩, -⟩ := legal_iff.mp hc
  exact hways

theorem sets_eq_two_pow_setBits : c.sets = 2 ^ c.setBits := by
  obtain ⟨k, hk⟩ := Machine.legal_sets_two_pow c hc
  rw [setBits, sets, hk, Nat.log2_two_pow]

theorem sets_pos_of_legal : 0 < c.sets := by
  rw [sets_eq_two_pow_setBits hc]
  exact Nat.two_pow_pos _

end Legal

end CoreConfig

namespace Machine

section Legal
variable {c : CoreConfig} (hc : c.legal = true) (a : Word)
include hc

/-- Masking by SETS - 1 takes the remainder (41_branch_predictor R123). -/
theorem setOf_eq_mod : setOf c a = a.toNat % c.sets := by
  rw [setOf, CoreConfig.setMask, CoreConfig.sets_eq_two_pow_setBits hc, Nat.and_two_pow_sub_one_eq_mod]

theorem setOf_lt : setOf c a < c.sets := by
  rw [setOf_eq_mod hc]
  exact Nat.mod_lt _ (CoreConfig.sets_pos_of_legal hc)

/-- The shift by S is a division by SETS (41_branch_predictor R124). -/
theorem tagOf_eq_div : tagOf c a = a.toNat % 2 ^ c.branchIpBits / c.sets := by
  rw [tagOf, CoreConfig.sets_eq_two_pow_setBits hc, Nat.shiftRight_eq_div_pow]

/-- A tag is in its width (41_branch_predictor R124). -/
theorem tagOf_lt : tagOf c a < 2 ^ (c.branchIpBits - c.setBits) := by
  rw [tagOf_eq_div hc, CoreConfig.sets_eq_two_pow_setBits hc, Nat.div_lt_iff_lt_mul (Nat.two_pow_pos _), ← pow_add]
  exact (Nat.mod_lt _ (Nat.two_pow_pos _)).trans_le (Nat.pow_le_pow_right two_pos (by omega))

end Legal

/-! ### Construction (41_branch_predictor R121, 45_driver R260) -/

/-- Every port of the CORE has both its ends (40_port_fabric R101, R108). -/
theorem firstUnpaired_coreEnds : firstUnpaired coreEnds = none := by decide

theorem construct_of_firstFailure_none {l : Launch} (h : l.config.firstFailure = none) : construct l = .ofLaunch l := by
  rw [construct, constructWith, h, firstUnpaired_coreEnds]

theorem construct_of_firstFailure {l : Launch} {n : Nat} (h : l.config.firstFailure = some n) :
    construct l = (State.ofLaunch l).raise (.configInvalid n) := by
  rw [construct, constructWith, h]

/-- Settles O14: the port ends of the CORE are paired, so construction turns on `firstFailure` alone, and a run that
has ended steps to itself. -/
theorem legalConfigurations : Obligations.LegalConfigurations := by
  intro l
  change ((construct l).runStatus = .running ↔ ∀ n, l.config.Meets n) ∧ ((∃ n, ¬ l.config.Meets n) → _)
  rw [← not_forall, ← CoreConfig.firstFailure_eq_none_iff]
  cases hfail : l.config.firstFailure with
  | none =>
    rw [construct_of_firstFailure_none hfail]
    exact ⟨⟨fun _ => rfl, fun _ => rfl⟩, fun h => absurd rfl h⟩
  | some n =>
    rw [construct_of_firstFailure hfail]
    exact ⟨⟨nofun, nofun⟩, fun _ => ⟨rfl, rfl, n, CoreConfig.not_meets_of_firstFailure hfail, rfl,
      step_of_not_running nofun⟩⟩

end Machine
end Sys2Proof
end

section
/-!
SUPPORT. The BTB of a legal configuration (41_branch_predictor R122 to R137): its shape under a touch, an allocation and
an entry's update, and what a tag read, a tag write and an update do to the set of an address and to every other set.
-/

namespace Sys2Proof.Machine

/-! ### An entry's update -/

/-- An entry that a taken update with a new target has reset (41_branch_predictor R135). -/
def BpEntry.fresh (c : CoreConfig) (target : Word) : BpEntry where
  stateTable := List.replicate c.tableSize c.defaultState
  currentPattern := 0
  target := target

theorem BpEntry.fresh_ok (c : CoreConfig) (target : Word) : (BpEntry.fresh c target).ok c := by
  refine ⟨List.length_replicate, fun v hv => ?_, Nat.two_pow_pos _⟩
  rw [List.eq_of_mem_replicate hv]
  unfold CoreConfig.defaultState CoreConfig.maxState
  omega

/-- An entry with its current counter stepped and its history shifted (41_branch_predictor R136, R137). -/
def BpEntry.train (c : CoreConfig) (taken : Bool) (e : BpEntry) : BpEntry :=
  { e with
    stateTable := e.stateTable.set e.currentPattern (sat c e.counter taken)
    currentPattern := shiftPattern c e.currentPattern taken }

@[simp] theorem BpEntry.train_stateTable (c : CoreConfig) (taken : Bool) (e : BpEntry) :
    (e.train c taken).stateTable = e.stateTable.set e.currentPattern (sat c e.counter taken) := rfl

@[simp] theorem BpEntry.train_currentPattern (c : CoreConfig) (taken : Bool) (e : BpEntry) :
    (e.train c taken).currentPattern = shiftPattern c e.currentPattern taken := rfl

/-- A taken update with a new target resets the entry (41_branch_predictor R135). -/
theorem BpEntry.update_newTarget {e : BpEntry} {target : Word} (h : e.target ≠ target) (c : CoreConfig) :
    e.update c true target = BpEntry.fresh c target := by
  simp [BpEntry.update, BpEntry.fresh, h]

/-- Any other update trains it (41_branch_predictor R136, R137). -/
theorem BpEntry.update_trains {e : BpEntry} {taken : Bool} {target : Word} (h : taken = false ∨ e.target = target)
    (c : CoreConfig) : e.update c taken target = e.train c taken := by
  rcases h with rfl | h <;> simp [BpEntry.update, BpEntry.train, *]

/-- The pattern of an entry selects a counter of its table (41_branch_predictor R130). -/
theorem BpEntry.ok.getElem?_counter {c : CoreConfig} {e : BpEntry} (h : e.ok c) :
    e.stateTable[e.currentPattern]? = some e.counter := by
  obtain ⟨hlength, -, hpattern⟩ := h
  have hlt : e.currentPattern < e.stateTable.length := by rwa [hlength]
  rw [BpEntry.counter, List.getD_eq_getElem _ _ hlt, List.getElem?_eq_getElem hlt]

theorem BpEntry.ok.counter_le {c : CoreConfig} {e : BpEntry} (h : e.ok c) : e.counter ≤ c.maxState := by
  have hmem := List.mem_of_getElem? h.getElem?_counter
  obtain ⟨-, hrange, -⟩ := h
  exact hrange _ hmem

theorem BpEntry.ok.train {c : CoreConfig} {e : BpEntry} (h : e.ok c) (taken : Bool) : (e.train c taken).ok c := by
  have hcounter := sat_le h.counter_le taken
  obtain ⟨hlength, hrange, -⟩ := h
  refine ⟨List.length_set.trans hlength, fun v hv => ?_, shiftPattern_lt c _ _⟩
  rcases List.mem_or_eq_of_mem_set hv with hold | rfl
  · exact hrange v hold
  · exact hcounter

/-- An update keeps the shape of an entry (41_branch_predictor R135 to R137). -/
theorem BpEntry.ok.update {c : CoreConfig} {e : BpEntry} (h : e.ok c) (taken : Bool) (target : Word) :
    (e.update c taken target).ok c := by
  unfold BpEntry.update
  split
  · exact BpEntry.fresh_ok c target
  · exact h.train taken

/-! ### The shape of a set -/

@[simp] theorem BtbSet.touch_tags (b : BtbSet) (w : Nat) : (b.touch w).tags = b.tags := rfl

@[simp] theorem BtbSet.touch_data (b : BtbSet) (w : Nat) : (b.touch w).data = b.data := rfl

@[simp] theorem BtbSet.touch_lru (b : BtbSet) (w : Nat) : (b.touch w).lru = touchOrder b.lru w := rfl

@[simp] theorem BtbSet.allocate_tags (b : BtbSet) (w tag : Nat) :
    (b.allocate w tag).tags = b.tags.set w (some tag) := rfl

@[simp] theorem BtbSet.allocate_data (b : BtbSet) (w tag : Nat) : (b.allocate w tag).data = b.data := rfl

@[simp] theorem BtbSet.allocate_lru (b : BtbSet) (w tag : Nat) : (b.allocate w tag).lru = touchOrder b.lru w := rfl

namespace BtbSet.ok
variable {c : CoreConfig} {b : BtbSet} {w : Nat} (h : b.ok c)
include h

theorem length_tags : b.tags.length = c.btbWays := h.1

theorem length_data : b.data.length = c.btbWays := by
  obtain ⟨-, hdata, -⟩ := h
  exact hdata

theorem lru_perm : b.lru.Perm (List.range c.btbWays) := by
  obtain ⟨-, -, hlru, -⟩ := h
  exact hlru

theorem tags_nodup : (b.tags.filterMap id).Nodup := by
  obtain ⟨-, -, -, hnodup, -⟩ := h
  exact hnodup

theorem mem_lru : w ∈ b.lru ↔ w < c.btbWays := h.lru_perm.mem_iff.trans List.mem_range

theorem lru_nodup : b.lru.Nodup := h.lru_perm.nodup_iff.mpr List.nodup_range

/-- A way of the set has an entry of the configured shape. -/
theorem getElem?_data (hw : w < c.btbWays) : b.data[w]? = some (btbEntry b w) ∧ (btbEntry b w).ok c := by
  have hlt : w < b.data.length := by rwa [h.length_data]
  have hentry : btbEntry b w = b.data[w] := List.getD_eq_getElem _ _ hlt
  obtain ⟨-, -, -, -, -, hdata⟩ := h
  exact ⟨by rw [hentry, List.getElem?_eq_getElem hlt], hentry ▸ hdata _ (List.getElem_mem hlt)⟩

/-- Of a set with ways, the first of the recency order is a way (41_branch_predictor R127). -/
theorem lru_head (hways : 0 < c.btbWays) : b.lru = b.lru.headD 0 :: b.lru.tail := by
  cases hlru : b.lru with
  | nil => exact absurd (h.mem_lru.mpr hways) (by simp [hlru])
  | cons v vs => rfl

/-- A touch keeps the shape (41_branch_predictor R125). -/
theorem touch (hw : w < c.btbWays) : (b.touch w).ok c := by
  have hmem := h.mem_lru.mpr hw
  obtain ⟨htags, hdata, hlru, hrest⟩ := h
  exact ⟨htags, hdata, (touchOrder_perm hmem).trans hlru, hrest⟩

/-- An allocation of a tag the set does not hold keeps the shape (41_branch_predictor R126, R127). -/
theorem allocate {tag : Nat} (hw : w < c.btbWays) (hfresh : tag ∉ b.tags.filterMap id)
    (htag : tag < 2 ^ (c.branchIpBits - c.setBits)) : (b.allocate w tag).ok c := by
  have hmem := h.mem_lru.mpr hw
  obtain ⟨htags, hdata, hlru, hnodup, hwidth, hentries⟩ := h
  have hperm : ((b.tags.set w (some tag)).filterMap id).Perm (tag :: (b.tags.eraseIdx w).filterMap id) := by
    simpa using (List.set_perm_cons_eraseIdx (htags ▸ hw) (some tag)).filterMap id
  have hkept : ((b.tags.eraseIdx w).filterMap id).Sublist (b.tags.filterMap id) :=
    (List.eraseIdx_sublist b.tags w).filterMap id
  refine ⟨List.length_set.trans htags, hdata, (touchOrder_perm hmem).trans hlru, ?_, fun t ht => ?_, hentries⟩
  · exact hperm.nodup_iff.mpr (List.nodup_cons.mpr ⟨fun hin => hfresh (hkept.subset hin), hnodup.sublist hkept⟩)
  · rcases List.mem_cons.mp (hperm.mem_iff.mp ht) with rfl | hold
    · exact htag
    · exact hwidth t (hkept.subset hold)

/-- The update of one way's entry keeps the shape (41_branch_predictor R135 to R137). -/
theorem updateEntry (hw : w < c.btbWays) (taken : Bool) (target : Word) : (b.updateEntry c w taken target).ok c := by
  have hentry := (h.getElem?_data hw).2
  obtain ⟨htags, hdata, hlru, hnodup, hwidth, hentries⟩ := h
  refine ⟨htags, List.length_set.trans hdata, hlru, hnodup, hwidth, fun e he => ?_⟩
  rcases List.mem_or_eq_of_mem_set he with hold | rfl
  · exact hentries e hold
  · exact hentry.update taken target

end BtbSet.ok

/-! ### The sets of a BTB -/

/-- A set that was replaced reads as its new contents. -/
theorem btbSet_set_same {btb : Btb} {i : Nat} (h : i < btb.length) (b : BtbSet) : btbSet (btb.set i b) i = b := by
  simp [btbSet, List.getD, h]

theorem BtbOk.set {c : CoreConfig} {btb : Btb} (h : BtbOk c btb) (i : Nat) {b : BtbSet} (hb : b.ok c) :
    BtbOk c (btb.set i b) := by
  obtain ⟨hlength, hsets⟩ := h
  refine ⟨List.length_set.trans hlength, fun b' hb' => ?_⟩
  rcases List.mem_or_eq_of_mem_set hb' with hold | rfl
  · exact hsets b' hold
  · exact hb

section Address
variable {c : CoreConfig} {btb : Btb} {a : Word} (hc : c.legal = true) (hbtb : BtbOk c btb)

section Lookup
include hc hbtb

theorem setOf_lt_length : setOf c a < btb.length := by
  rw [hbtb.1]
  exact setOf_lt hc a

/-- The set of an address is one of the BTB (41_branch_predictor R123). -/
theorem getElem?_setOf : btb[setOf c a]? = some (btbSet btb (setOf c a)) := by
  have hlt := setOf_lt_length (a := a) hc hbtb
  rw [btbSet, List.getD_eq_getElem _ _ hlt, List.getElem?_eq_getElem hlt]

theorem btbSet_setOf_ok : (btbSet btb (setOf c a)).ok c := hbtb.2 _ (List.mem_of_getElem? (getElem?_setOf hc hbtb))

/-- A lookup hits the way that holds the tag (41_branch_predictor R126). -/
theorem tagHit_eq_some_iff (w : Nat) :
    tagHit c btb a = some w ↔ (btbSet btb (setOf c a)).tags[w]? = some (some (tagOf c a)) :=
  findWay_iff (btbSet_setOf_ok hc hbtb).tags_nodup w

theorem tag_fresh_of_miss (h : tagHit c btb a = none) : tagOf c a ∉ (btbSet btb (setOf c a)).tags.filterMap id := by
  intro hmem
  obtain ⟨t, ht, rfl⟩ : ∃ t ∈ (btbSet btb (setOf c a)).tags, t = some (tagOf c a) := by simpa using hmem
  obtain ⟨w, hw⟩ := List.getElem?_of_mem ht
  rw [(tagHit_eq_some_iff hc hbtb w).mpr hw] at h
  cases h

end Lookup

theorem writeWay_hit {w : Nat} (h : tagHit c btb a = some w) : writeWay c btb a = w := by rw [writeWay, h]

theorem writeWay_miss (h : tagHit c btb a = none) : writeWay c btb a = (btbSet btb (setOf c a)).lru.headD 0 := by
  rw [writeWay, h]

theorem tagWrite_hit {w : Nat} (h : tagHit c btb a = some w) : tagWrite c btb a = tagRead c btb a := by
  rw [tagWrite, h]

/-- The other sets keep their contents in a tag read (41_branch_predictor R126). -/
theorem btbSet_tagRead_other {i : Nat} (hi : i ≠ setOf c a) : btbSet (tagRead c btb a) i = btbSet btb i := by
  unfold tagRead
  split
  · rfl
  · exact btbSet_set_ne hi _

/-- The other sets keep their contents in a tag write (41_branch_predictor R127). -/
theorem btbSet_tagWrite_other {i : Nat} (hi : i ≠ setOf c a) : btbSet (tagWrite c btb a) i = btbSet btb i := by
  unfold tagWrite
  split
  · exact btbSet_tagRead_other hi
  · exact btbSet_set_ne hi _

include hc hbtb

/-- The way of a tag write is a way (41_branch_predictor R127). -/
theorem writeWay_lt : writeWay c btb a < c.btbWays := by
  have hset := btbSet_setOf_ok (a := a) hc hbtb
  cases hhit : tagHit c btb a with
  | some w =>
    rw [writeWay_hit hhit, ← hset.length_tags]
    exact (List.getElem?_eq_some_iff.mp ((tagHit_eq_some_iff hc hbtb w).mp hhit)).1
  | none =>
    rw [writeWay_miss hhit, ← hset.mem_lru, hset.lru_head (CoreConfig.btbWays_pos_of_legal hc)]
    exact List.mem_cons_self

/-! ### Tag read -/

theorem btbSet_tagRead_hit {w : Nat} (h : tagHit c btb a = some w) :
    btbSet (tagRead c btb a) (setOf c a) = (btbSet btb (setOf c a)).touch w := by
  rw [tagRead, h]
  exact btbSet_set_same (setOf_lt_length hc hbtb) _

/-- A tag read leaves the entries of its set (41_branch_predictor R126). -/
theorem btbSet_tagRead_data : (btbSet (tagRead c btb a) (setOf c a)).data = (btbSet btb (setOf c a)).data := by
  cases hhit : tagHit c btb a with
  | some w => rw [btbSet_tagRead_hit hc hbtb hhit, BtbSet.touch_data]
  | none => rw [tagRead_miss hhit]

/-- A tag read keeps the shape of the BTB. -/
theorem tagRead_ok : BtbOk c (tagRead c btb a) := by
  unfold tagRead
  split
  · exact hbtb
  · next w hhit =>
    exact hbtb.set _ ((btbSet_setOf_ok hc hbtb).touch (writeWay_hit hhit ▸ writeWay_lt hc hbtb))

/-! ### Tag write -/

theorem btbSet_tagWrite_miss (h : tagHit c btb a = none) :
    btbSet (tagWrite c btb a) (setOf c a) = (btbSet btb (setOf c a)).allocate (writeWay c btb a) (tagOf c a) := by
  rw [tagWrite, h]
  exact btbSet_set_same (setOf_lt_length hc hbtb) _

/-- A tag write leaves the entries of its set (41_branch_predictor R127). -/
theorem btbSet_tagWrite_data : (btbSet (tagWrite c btb a) (setOf c a)).data = (btbSet btb (setOf c a)).data := by
  cases hhit : tagHit c btb a with
  | some w => rw [tagWrite_hit hhit, btbSet_tagRead_data hc hbtb]
  | none => rw [btbSet_tagWrite_miss hc hbtb hhit, BtbSet.allocate_data]

/-- After a tag write the way it returned holds the tag (41_branch_predictor R127). -/
theorem btbSet_tagWrite_tags :
    (btbSet (tagWrite c btb a) (setOf c a)).tags[writeWay c btb a]? = some (some (tagOf c a)) := by
  cases hhit : tagHit c btb a with
  | some w =>
    rw [tagWrite_hit hhit, btbSet_tagRead_hit hc hbtb hhit, BtbSet.touch_tags, writeWay_hit hhit]
    exact (tagHit_eq_some_iff hc hbtb w).mp hhit
  | none =>
    rw [btbSet_tagWrite_miss hc hbtb hhit, BtbSet.allocate_tags]
    refine List.getElem?_set_self ?_
    rw [(btbSet_setOf_ok hc hbtb).length_tags]
    exact writeWay_lt hc hbtb

/-- A tag write keeps the shape of the BTB: a miss allocates a tag that its set does not hold. -/
theorem tagWrite_ok : BtbOk c (tagWrite c btb a) := by
  unfold tagWrite
  split
  · exact tagRead_ok hc hbtb
  · next hmiss =>
    exact hbtb.set _ ((btbSet_setOf_ok hc hbtb).allocate (writeWay_lt hc hbtb) (tag_fresh_of_miss hc hbtb hmiss)
      (tagOf_lt hc a))

/-! ### Update -/

/-- An update keeps the shape of the BTB (41_branch_predictor R134). -/
theorem btbUpdate_ok (taken : Bool) (target : Word) : BtbOk c (btbUpdate c btb taken a target) := by
  have hwritten := tagWrite_ok (a := a) hc hbtb
  exact hwritten.set _ ((btbSet_setOf_ok hc hwritten).updateEntry (writeWay_lt hc hbtb) taken target)

theorem btbSet_btbUpdate_same (taken : Bool) (target : Word) :
    btbSet (btbUpdate c btb taken a target) (setOf c a) =
      (btbSet (tagWrite c btb a) (setOf c a)).updateEntry c (writeWay c btb a) taken target :=
  btbSet_set_same (setOf_lt_length hc (tagWrite_ok hc hbtb)) _

/-- After an update the address hits, in the way the tag write returned (41_branch_predictor R134). -/
theorem tagHit_btbUpdate (taken : Bool) (target : Word) :
    tagHit c (btbUpdate c btb taken a target) a = some (writeWay c btb a) := by
  rw [tagHit_eq_some_iff hc (btbUpdate_ok hc hbtb taken target), btbSet_btbUpdate_same hc hbtb]
  exact btbSet_tagWrite_tags hc hbtb

theorem btbUpdate_data (taken : Bool) (target : Word) :
    (btbSet (btbUpdate c btb taken a target) (setOf c a)).data =
      (btbSet btb (setOf c a)).data.set (writeWay c btb a)
        ((btbEntry (btbSet btb (setOf c a)) (writeWay c btb a)).update c taken target) := by
  rw [btbSet_btbUpdate_same hc hbtb, BtbSet.updateEntry, btbEntry, btbSet_tagWrite_data hc hbtb, btbEntry]

end Address

theorem btbSet_btbUpdate_other {c : CoreConfig} {btb : Btb} {a : Word} {i : Nat} (hi : i ≠ setOf c a) (taken : Bool)
    (target : Word) : btbSet (btbUpdate c btb taken a target) i = btbSet btb i := by
  rw [btbUpdate, btbSet_set_ne hi, btbSet_tagWrite_other hi]

/-! ### The entry that an update trains -/

/-- The entry in the way of the address's tag write, which an update trains (41_branch_predictor R134). -/
def trainedEntry (c : CoreConfig) (btb : Btb) (a : Word) : BpEntry :=
  btbEntry (btbSet btb (setOf c a)) (writeWay c btb a)

/-- A hit predicts by the entry that an update would train (41_branch_predictor R131). -/
theorem predictTaken_hit {c : CoreConfig} {btb : Btb} {a : Word} {w : Nat} (h : tagHit c btb a = some w) :
    predictTaken c btb a = (trainedEntry c btb a).predicts c := by
  rw [predictTaken, h, trainedEntry, writeWay_hit h]

/-- A hit has the target of the entry that an update would train (41_branch_predictor R132). -/
theorem getTarget_hit {c : CoreConfig} {btb : Btb} {a : Word} {w : Nat} (h : tagHit c btb a = some w) :
    getTarget c btb a = (trainedEntry c btb a).target := by
  rw [getTarget, h, trainedEntry, writeWay_hit h]

section Trained
variable {c : CoreConfig} {btb : Btb} {a : Word} (hc : c.legal = true) (hbtb : BtbOk c btb)
include hc hbtb

theorem getElem?_trainedEntry :
    (btbSet btb (setOf c a)).data[writeWay c btb a]? = some (trainedEntry c btb a) ∧ (trainedEntry c btb a).ok c :=
  (btbSet_setOf_ok hc hbtb).getElem?_data (writeWay_lt hc hbtb)

/-- A further tag write of an updated address returns the same way (41_branch_predictor R127). -/
theorem writeWay_btbUpdate (taken : Bool) (target : Word) :
    writeWay c (btbUpdate c btb taken a target) a = writeWay c btb a :=
  writeWay_hit (tagHit_btbUpdate hc hbtb taken target)

/-- An update of the address updates its entry (41_branch_predictor R134). -/
theorem trainedEntry_btbUpdate (taken : Bool) (target : Word) :
    trainedEntry c (btbUpdate c btb taken a target) a = (trainedEntry c btb a).update c taken target := by
  obtain ⟨hlt, -⟩ := List.getElem?_eq_some_iff.mp (getElem?_trainedEntry (a := a) hc hbtb).1
  rw [trainedEntry, writeWay_btbUpdate hc hbtb, btbEntry, btbUpdate_data hc hbtb]
  simp [List.getD, hlt, trainedEntry]

/-- An update leaves the entries of the other ways (41_branch_predictor R134). -/
theorem btbEntry_btbUpdate_other {v : Nat} (hv : v ≠ writeWay c btb a) (taken : Bool) (target : Word) :
    btbEntry (btbSet (btbUpdate c btb taken a target) (setOf c a)) v = btbEntry (btbSet btb (setOf c a)) v := by
  rw [btbEntry, btbUpdate_data hc hbtb]
  simp [List.getD, btbEntry, hv.symm]

/-- After an update the prediction is that of the updated entry (41_branch_predictor R131). -/
theorem predictTaken_btbUpdate (taken : Bool) (target : Word) :
    predictTaken c (btbUpdate c btb taken a target) a = ((trainedEntry c btb a).update c taken target).predicts c := by
  rw [predictTaken_hit (tagHit_btbUpdate hc hbtb taken target), trainedEntry_btbUpdate hc hbtb]

end Trained

/-- The shifted history, by arithmetic (41_branch_predictor R137). -/
theorem shiftPattern_eq_mod (c : CoreConfig) (k : Nat) (taken : Bool) :
    shiftPattern c k taken = (2 * k + if taken then 1 else 0) % 2 ^ c.predictionLevel := by
  have hor : k <<< 1 ||| (if taken then 1 else 0) = 2 * k + if taken then 1 else 0 := by
    rw [← Nat.shiftLeft_add_eq_or_of_lt (by cases taken <;> decide), Nat.shiftLeft_eq, pow_one, Nat.mul_comm]
  rw [shiftPattern, hor, CoreConfig.patternMask, CoreConfig.tableSize, Nat.and_two_pow_sub_one_eq_mod]

/-- Settles O16: the tag write leaves the address in the way it returned and every entry as it was, and the update
replaces the entry of that way. -/
theorem updateTrainsOneEntry : Obligations.UpdateTrainsOneEntry := by
  intro c btb taken a target hc hbtb
  have hentry := trainedEntry_btbUpdate (a := a) hc hbtb taken target
  rw [trainedEntry, writeWay_btbUpdate hc hbtb, trainedEntry] at hentry
  refine ⟨tagHit_btbUpdate hc hbtb taken target, fun htaken hnew => ?_, fun hkeep => ?_,
    fun v hv => btbEntry_btbUpdate_other hc hbtb hv taken target, fun i hi => btbSet_btbUpdate_other hi taken target⟩
  · subst htaken
    rw [hentry, BpEntry.update_newTarget hnew]
    rfl
  · rw [hentry, BpEntry.update_trains hkeep]
    exact ⟨rfl, rfl, shiftPattern_eq_mod c _ taken⟩

/-- Settles O17: a set of the configured shape holds no tag twice and lists every way once, so the search finds the one
way with the tag and a touch moves one way to the end. -/
theorem replacementIsLeastRecentlyUsed : Obligations.ReplacementIsLeastRecentlyUsed := by
  intro c btb a hc hbtb
  have hset := btbSet_setOf_ok (a := a) hc hbtb
  refine ⟨setOf_eq_mod hc a, tagOf_eq_div hc a, ?_, ?_, fun hmiss => ?_, fun w hhit => ?_,
    btbSet_tagRead_data hc hbtb, btbSet_tagWrite_data hc hbtb,
    fun i hi => ⟨btbSet_tagRead_other hi, btbSet_tagWrite_other hi⟩⟩
  · exact setOf_eq_mod hc a ▸ getElem?_setOf hc hbtb
  · exact tagOf_eq_div hc a ▸ tagHit_eq_some_iff hc hbtb
  · have hlru := hset.lru_head (CoreConfig.btbWays_pos_of_legal hc)
    rw [← writeWay_miss hmiss] at hlru
    refine ⟨predictTaken_miss hmiss, getTarget_miss hmiss, tagRead_miss hmiss, ?_, ?_, ?_⟩
    · rw [hlru]; rfl
    · rw [btbSet_tagWrite_miss hc hbtb hmiss, BtbSet.allocate_tags]
    · rw [btbSet_tagWrite_miss hc hbtb hmiss, BtbSet.allocate_lru, hlru, touchOrder, List.erase_cons_head]; rfl
  · obtain ⟨hentry, hok⟩ := getElem?_trainedEntry (a := a) hc hbtb
    rw [writeWay_hit hhit] at hentry
    refine ⟨⟨_, _, hentry, hok.getElem?_counter, predictTaken_hit hhit, getTarget_hit hhit⟩, writeWay_hit hhit,
      tagWrite_hit hhit, ?_, ?_⟩
    · rw [btbSet_tagRead_hit hc hbtb hhit, BtbSet.touch_tags]
    · rw [btbSet_tagRead_hit hc hbtb hhit, BtbSet.touch_lru, touchOrder, hset.lru_nodup.erase_eq_filter]

end Sys2Proof.Machine
end

section
/-!
SUPPORT. The saturating counters of an entry: the source's masked-complement trick (41_branch_predictor R133), a fresh
target (R140) and equal outcomes in a row (R143).
-/

namespace Sys2Proof.Machine

/-! ### The masked-complement trick (R133) -/

/-- The source's correction of a stepped counter: with bit B set, the complement's low B bits
(41_branch_predictor R133). -/
def maskedComplement (b : Nat) (u : BitVec (b + 2)) : Nat :=
  let mean : BitVec (b + 2) := BitVec.ofNat (b + 2) (2 ^ (b - 1))
  if u &&& (mean <<< 1) ≠ 0 then (~~~u &&& (2 * mean - 1)).toNat else u.toNat

theorem satTrick_taken (b v : Nat) : satTrick b v true = maskedComplement b (BitVec.ofNat (b + 2) (v + 1)) := by
  rw [BitVec.ofNat_add]; rfl

theorem satTrick_notTaken (b v : Nat) : satTrick b v false = maskedComplement b (BitVec.ofNat (b + 2) v - 1) := rfl

/-- The correction tests bit B and masks by 2^B - 1 (41_branch_predictor R133). -/
theorem maskedComplement_eq {b : Nat} (hb : 1 ≤ b) (u : BitVec (b + 2)) :
    maskedComplement b u = if u.getLsbD b then (2 ^ (b + 2) - 1 - u.toNat) % 2 ^ b else u.toNat := by
  have hlt : 2 ^ b < 2 ^ (b + 2) := Nat.pow_lt_pow_right one_lt_two (by omega)
  have hdouble : 2 ^ b = 2 ^ (b - 1) * 2 := by rw [← pow_succ, Nat.sub_add_cancel hb]
  have htested : BitVec.ofNat (b + 2) (2 ^ (b - 1)) <<< 1 = BitVec.twoPow (b + 2) b := by
    apply BitVec.eq_of_toNat_eq
    rw [BitVec.toNat_shiftLeft, BitVec.toNat_ofNat, BitVec.toNat_twoPow, Nat.shiftLeft_eq, pow_one,
      Nat.mod_mul_mod, hdouble]
  have hmask : (2 * BitVec.ofNat (b + 2) (2 ^ (b - 1)) - 1).toNat = 2 ^ b - 1 := by
    have hproduct : 2 * BitVec.ofNat (b + 2) (2 ^ (b - 1)) = BitVec.ofNat (b + 2) (2 ^ b) := by
      rw [hdouble, mul_comm _ 2, BitVec.ofNat_mul]; rfl
    have hdifference : BitVec.ofNat (b + 2) (2 ^ b) - 1 = BitVec.ofNat (b + 2) (2 ^ b - 1) :=
      BitVec.ofNat_sub_ofNat_of_le _ _ (Nat.one_lt_two_pow (by omega)) Nat.one_le_two_pow
    rw [hproduct, hdifference, BitVec.toNat_ofNat, Nat.mod_eq_of_lt (by omega)]
  rw [maskedComplement, htested, BitVec.and_twoPow]
  cases u.getLsbD b with
  | false => simp
  | true =>
    have hnonzero : BitVec.twoPow (b + 2) b ≠ 0 := by
      intro h0
      have hzero := congrArg BitVec.toNat h0
      rw [BitVec.toNat_twoPow, Nat.mod_eq_of_lt hlt] at hzero
      exact (Nat.two_pow_pos b).ne' hzero
    rw [if_pos rfl, if_pos hnonzero, if_pos rfl, BitVec.toNat_and, hmask, BitVec.toNat_not,
      Nat.and_two_pow_sub_one_eq_mod]

/-- A counter in its range is left as it is. -/
theorem maskedComplement_of_lt {b n : Nat} (hb : 1 ≤ b) (hn : n < 2 ^ b) :
    maskedComplement b (BitVec.ofNat (b + 2) n) = n := by
  have hlt : n < 2 ^ (b + 2) := hn.trans (Nat.pow_lt_pow_right one_lt_two (by omega))
  rw [maskedComplement_eq hb, BitVec.getLsbD_ofNat, Nat.testBit_lt_two_pow hn, Bool.and_false,
    if_neg Bool.false_ne_true, BitVec.toNat_ofNat, Nat.mod_eq_of_lt hlt]

/-- A counter that left its range at the top comes back to the largest value. -/
theorem maskedComplement_two_pow {b : Nat} (hb : 1 ≤ b) :
    maskedComplement b (BitVec.ofNat (b + 2) (2 ^ b)) = 2 ^ b - 1 := by
  have hpos := Nat.two_pow_pos b
  have hwidth : 2 ^ (b + 2) = 2 ^ b * 4 := pow_add 2 b 2
  have hmod : 2 ^ b % 2 ^ (b + 2) = 2 ^ b := Nat.mod_eq_of_lt (by omega)
  have hcomplement : 2 ^ (b + 2) - 1 - 2 ^ b = 2 ^ b - 1 + 2 ^ b * 2 := by omega
  rw [maskedComplement_eq hb, BitVec.getLsbD_ofNat, Nat.testBit_two_pow_self, Bool.and_true,
    if_pos (decide_eq_true (by omega)), BitVec.toNat_ofNat, hmod, hcomplement,
    Nat.add_mul_mod_self_left, Nat.mod_eq_of_lt (by omega)]

/-- A counter that left its range at the bottom comes back to 0. -/
theorem maskedComplement_zero_sub_one {b : Nat} (hb : 1 ≤ b) :
    maskedComplement b (BitVec.ofNat (b + 2) 0 - 1) = 0 := by
  have hones : BitVec.ofNat (b + 2) 0 - 1 = BitVec.allOnes (b + 2) := by
    rw [← BitVec.neg_one_eq_allOnes]
    exact BitVec.zero_sub _
  rw [maskedComplement_eq hb, hones, BitVec.getLsbD_allOnes, if_pos (decide_eq_true (by omega)),
    BitVec.toNat_allOnes, Nat.sub_self, Nat.zero_mod]

/-- Settles O15: a stepped counter is in its range, or it left it by one at the top or at the bottom. -/
theorem saturatingTrickIsClamp : Obligations.SaturatingTrickIsClamp := by
  intro c v hb hv
  have hmax : c.maxState = 2 ^ c.predictionBits - 1 := by
    rw [CoreConfig.maxState, CoreConfig.meanState, ← pow_succ', Nat.sub_add_cancel hb]
  have hpos := Nat.two_pow_pos c.predictionBits
  refine ⟨?_, ?_, rfl, rfl⟩
  · rw [satTrick_taken]
    rcases Nat.lt_or_ge (v + 1) (2 ^ c.predictionBits) with hin | hout
    · rw [maskedComplement_of_lt hb hin]
      omega
    · rw [show v + 1 = 2 ^ c.predictionBits by omega, maskedComplement_two_pow hb]
      omega
  · rw [satTrick_notTaken]
    cases v with
    | zero => exact maskedComplement_zero_sub_one hb
    | succ v =>
      have hstep : BitVec.ofNat (c.predictionBits + 2) (v + 1) - 1 = BitVec.ofNat (c.predictionBits + 2) v :=
        BitVec.ofNat_sub_ofNat_of_le _ _ (Nat.one_lt_two_pow (by omega)) (Nat.le_add_left 1 v)
      rw [hstep, maskedComplement_of_lt hb (by omega)]
      rfl

/-! ### A fresh target (R140) -/

theorem sat_default_taken (c : CoreConfig) : sat c c.defaultState true = c.meanState := by
  have hpos := c.meanState_pos
  change min (c.meanState - 1 + 1) (2 * c.meanState - 1) = c.meanState
  omega

theorem BpEntry.fresh_counter (c : CoreConfig) (target : Word) : (BpEntry.fresh c target).counter = c.defaultState := by
  simp [BpEntry.counter, BpEntry.fresh, List.getElem?_replicate_of_lt c.tableSize_pos]

/-- An entry that an update has just reset predicts not taken (41_branch_predictor R140). -/
theorem BpEntry.fresh_predicts (c : CoreConfig) (target : Word) : (BpEntry.fresh c target).predicts c = false := by
  have hpos := c.meanState_pos
  refine decide_eq_false ?_
  rw [BpEntry.fresh_counter, CoreConfig.defaultState]
  omega

/-- A further taken update with the same target trains the reset entry (41_branch_predictor R136). -/
theorem BpEntry.fresh_update (c : CoreConfig) (target : Word) :
    (BpEntry.fresh c target).update c true target = (BpEntry.fresh c target).train c true :=
  BpEntry.update_trains (.inr rfl) c

/-- One taken outcome brings the counter of pattern 0 of a reset entry to mean_state (41_branch_predictor R140). -/
theorem BpEntry.fresh_train_stateTable (c : CoreConfig) (target : Word) :
    ((BpEntry.fresh c target).train c true).stateTable =
      (List.replicate c.tableSize c.defaultState).set 0 c.meanState := by
  rw [BpEntry.train_stateTable, BpEntry.fresh_counter, sat_default_taken]; rfl

/-- One taken outcome moves a reset entry to pattern 1, which is pattern 0 with L = 0 (41_branch_predictor R140). -/
theorem BpEntry.fresh_train_currentPattern (c : CoreConfig) (target : Word) :
    ((BpEntry.fresh c target).train c true).currentPattern = 1 % 2 ^ c.predictionLevel :=
  shiftPattern_eq_mod c 0 true

/-- With L = 0 a reset entry predicts taken after one taken outcome (41_branch_predictor R140). -/
theorem BpEntry.fresh_train_predicts (c : CoreConfig) (target : Word) :
    ((BpEntry.fresh c target).train c true).predicts c = decide (c.predictionLevel = 0) := by
  have hpos := c.meanState_pos
  rw [BpEntry.predicts, BpEntry.counter, BpEntry.fresh_train_stateTable, BpEntry.fresh_train_currentPattern]
  rcases Nat.eq_zero_or_pos c.predictionLevel with hL | hL
  · simp [hL, List.getD, c.tableSize_pos]
  · have hlt : 1 < 2 ^ c.predictionLevel := Nat.one_lt_two_pow (by omega)
    have hdefault : ¬ c.meanState ≤ c.defaultState := by unfold CoreConfig.defaultState; omega
    have hpattern : 1 < c.tableSize := hlt
    simp [Nat.mod_eq_of_lt hlt, List.getD, hpattern, hdefault, hL.ne']

/-- Settles O18: the first update resets the entry and the second trains it, which steps the counter of pattern 0 and
moves to pattern 1 modulo 2^L. -/
theorem freshTargetPredictsNotTaken : Obligations.FreshTargetPredictsNotTaken := by
  intro c btb a target hc hbtb hnew
  change (trainedEntry c btb a).target ≠ target at hnew
  have honce := btbUpdate_ok (a := a) hc hbtb true target
  have hfirst := trainedEntry_btbUpdate (a := a) hc hbtb true target
  rw [BpEntry.update_newTarget hnew] at hfirst
  have hsecond := trainedEntry_btbUpdate (a := a) hc honce true target
  rw [hfirst, BpEntry.fresh_update, trainedEntry, writeWay_btbUpdate hc honce, writeWay_btbUpdate hc hbtb] at hsecond
  refine ⟨?_, ?_, ?_, fun hL => ?_⟩
  · rw [predictTaken_btbUpdate hc hbtb, BpEntry.update_newTarget hnew, BpEntry.fresh_predicts]
  · rw [predictTaken_btbUpdate hc honce, hfirst, BpEntry.fresh_update, BpEntry.fresh_train_predicts]
  · rw [hsecond, BpEntry.fresh_train_stateTable]
    exact List.getElem?_set_self (by simpa using c.tableSize_pos)
  · have hlt : 1 < c.tableSize := Nat.one_lt_two_pow (by omega)
    rw [hsecond, BpEntry.fresh_train_stateTable, BpEntry.fresh_train_currentPattern]
    refine ⟨Nat.mod_eq_of_lt hlt, ?_⟩
    rw [List.getElem?_set_ne Nat.zero_ne_one, List.getElem?_replicate_of_lt hlt]
    rfl

/-! ### Equal outcomes in a row (R143) -/

/-- The history that equal outcomes lead to: all ones or all zeros (41_branch_predictor R137). -/
def settledPattern (c : CoreConfig) (taken : Bool) : Nat := if taken then c.tableSize - 1 else 0

/-- After `k` equal outcomes the `k` youngest bits of the history are that outcome (41_branch_predictor R137). -/
theorem two_pow_dvd_pattern (c : CoreConfig) (taken : Bool) (e : BpEntry) {k : Nat} (hk : k ≤ c.predictionLevel) :
    2 ^ k ∣ ((BpEntry.train c taken)^[k] e).currentPattern + if taken then 1 else 0 := by
  induction k with
  | zero => exact one_dvd _
  | succ k ih =>
    rw [Function.iterate_succ_apply', BpEntry.train_currentPattern, shiftPattern_eq_mod,
      ((Nat.mod_modEq _ _).add_right _).dvd_iff (pow_dvd_pow 2 hk), add_assoc, ← two_mul, ← mul_add, pow_succ']
    exact mul_dvd_mul_left 2 (ih (by omega))

theorem BpEntry.ok.iterate_train {c : CoreConfig} {e : BpEntry} (h : e.ok c) (taken : Bool) (n : Nat) :
    ((BpEntry.train c taken)^[n] e).ok c :=
  Function.Iterate.rec (BpEntry.ok c) h (fun _ he => he.train taken) n

/-- L equal outcomes settle the history (41_branch_predictor R137). -/
theorem pattern_settles {c : CoreConfig} {e : BpEntry} (h : e.ok c) (taken : Bool) :
    ((BpEntry.train c taken)^[c.predictionLevel] e).currentPattern = settledPattern c taken := by
  have hdvd : c.tableSize ∣ _ := two_pow_dvd_pattern c taken e le_rfl
  obtain ⟨-, -, hlt⟩ := h.iterate_train taken c.predictionLevel
  cases taken with
  | true =>
    have hle := Nat.le_of_dvd (Nat.succ_pos _) hdvd
    simp only [settledPattern, if_true] at hle ⊢
    omega
  | false => exact Nat.eq_zero_of_dvd_of_lt hdvd hlt

/-- A settled history stays (41_branch_predictor R137). -/
theorem shiftPattern_settled (c : CoreConfig) (taken : Bool) :
    shiftPattern c (settledPattern c taken) taken = settledPattern c taken := by
  rw [shiftPattern_eq_mod]
  change _ % c.tableSize = _
  have hpos := c.tableSize_pos
  cases taken with
  | true =>
    have hdouble : 2 * (c.tableSize - 1) + 1 = c.tableSize - 1 + c.tableSize := by omega
    simp only [settledPattern, if_true]
    rw [hdouble, Nat.add_mod_right, Nat.mod_eq_of_lt (by omega)]
  | false => exact Nat.zero_mod _

/-- With a settled history every further equal outcome steps one and the same counter (41_branch_predictor R136). -/
theorem counter_iterate_train {c : CoreConfig} {taken : Bool} {e : BpEntry} (h : e.ok c)
    (hpattern : e.currentPattern = settledPattern c taken) (m : Nat) :
    ((BpEntry.train c taken)^[m] e).counter = (sat c · taken)^[m] e.counter := by
  induction m generalizing e with
  | zero => rfl
  | succ m ih =>
    have hkept : (e.train c taken).currentPattern = settledPattern c taken := by
      rw [BpEntry.train_currentPattern, hpattern, shiftPattern_settled]
    have hstep : (e.train c taken).counter = sat c e.counter taken := by
      have hlt : settledPattern c taken < e.stateTable.length := by
        obtain ⟨hlength, -, hbound⟩ := h
        rwa [hlength, ← hpattern]
      rw [BpEntry.counter, hkept, BpEntry.train_stateTable, hpattern]
      simp [List.getD, hlt]
    rw [Function.iterate_succ_apply, Function.iterate_succ_apply, ih (h.train taken) hkept, hstep]

theorem iterate_sat_taken (c : CoreConfig) {v : Nat} (hv : v ≤ c.maxState) (m : Nat) :
    (sat c · true)^[m] v = min (v + m) c.maxState := by
  induction m with
  | zero => exact (Nat.min_eq_left hv).symm
  | succ m ih =>
    rw [Function.iterate_succ_apply', ih]
    change min (_ + 1) _ = _
    omega

theorem iterate_sat_notTaken (c : CoreConfig) (v m : Nat) : (sat c · false)^[m] v = v - m := by
  induction m with
  | zero => rfl
  | succ m ih => rw [Function.iterate_succ_apply', ih]; rfl

/-- Taken outcomes lower no counter below a bound that all counters keep (41_branch_predictor R136). -/
theorem le_counters_train {c : CoreConfig} {e : BpEntry} {low : Nat} (h : e.ok c) (hlow : ∀ v ∈ e.stateTable, low ≤ v) :
    ∀ v ∈ (e.train c true).stateTable, low ≤ v := by
  intro v hv
  rcases List.mem_or_eq_of_mem_set hv with hold | rfl
  · exact hlow v hold
  · have hmem := List.mem_of_getElem? h.getElem?_counter
    have hlower := hlow _ hmem
    have hupper := h.counter_le
    change low ≤ min (_ + 1) _
    omega

theorem le_counters_iterate_train {c : CoreConfig} {e : BpEntry} {low : Nat} (h : e.ok c)
    (hlow : ∀ v ∈ e.stateTable, low ≤ v) (n : Nat) : ∀ v ∈ ((BpEntry.train c true)^[n] e).stateTable, low ≤ v := by
  induction n with
  | zero => exact hlow
  | succ n ih =>
    rw [Function.iterate_succ_apply']
    exact le_counters_train (h.iterate_train true n) ih

/-- From counters of at least `low`, L + m taken outcomes reach mean_state when `low + m` does
(41_branch_predictor R143). -/
theorem predicts_of_taken {c : CoreConfig} {e : BpEntry} {low m : Nat} (h : e.ok c) (hlow : ∀ v ∈ e.stateTable, low ≤ v)
    (hm : c.meanState ≤ low + m) : ((BpEntry.train c true)^[m + c.predictionLevel] e).predicts c = true := by
  have hsettled := h.iterate_train true c.predictionLevel
  have hlower := le_counters_iterate_train h hlow c.predictionLevel _ (List.mem_of_getElem? hsettled.getElem?_counter)
  refine decide_eq_true ?_
  rw [Function.iterate_add_apply, counter_iterate_train hsettled (pattern_settles h true),
    iterate_sat_taken c hsettled.counter_le]
  have hpos := c.meanState_pos
  have hmax : c.maxState = 2 * c.meanState - 1 := rfl
  omega

/-- L + mean_state outcomes of not taken bring any counter below mean_state (41_branch_predictor R143). -/
theorem predicts_of_notTaken {c : CoreConfig} {e : BpEntry} {m : Nat} (h : e.ok c) (hm : c.meanState ≤ m) :
    ((BpEntry.train c false)^[m + c.predictionLevel] e).predicts c = false := by
  have hsettled := h.iterate_train false c.predictionLevel
  have hmax : _ ≤ 2 * c.meanState - 1 := hsettled.counter_le
  refine decide_eq_false ?_
  rw [Function.iterate_add_apply, counter_iterate_train hsettled (pattern_settles h false), iterate_sat_notTaken]
  have hpos := c.meanState_pos
  omega

/-! ### Repeated updates -/

theorem repeatUpdate_eq_iterate (c : CoreConfig) (taken : Bool) (a target : Word) (n : Nat) (btb : Btb) :
    repeatUpdate c taken a target n btb = (btbUpdate c · taken a target)^[n] btb := by
  induction n generalizing btb with
  | zero => rfl
  | succ n ih => exact ih _

section Repeated
variable {c : CoreConfig} {btb : Btb} {a : Word} (hc : c.legal = true) (hbtb : BtbOk c btb)
  (taken : Bool) (target : Word)
include hc hbtb

theorem iterate_btbUpdate_ok (n : Nat) : BtbOk c ((btbUpdate c · taken a target)^[n] btb) :=
  Function.Iterate.rec (BtbOk c) hbtb (fun _ h => btbUpdate_ok hc h taken target) n

/-- Repeated updates of an address update its entry as often (41_branch_predictor R134). -/
theorem trainedEntry_iterate_btbUpdate (n : Nat) :
    trainedEntry c ((btbUpdate c · taken a target)^[n] btb) a =
      (BpEntry.update c taken target)^[n] (trainedEntry c btb a) := by
  induction n with
  | zero => rfl
  | succ n ih =>
    rw [Function.iterate_succ_apply', Function.iterate_succ_apply',
      trainedEntry_btbUpdate hc (iterate_btbUpdate_ok hc hbtb taken target n), ih]

/-- After at least one update of an address the prediction is that of its entry (41_branch_predictor R131). -/
theorem predictTaken_repeatUpdate {n : Nat} (hn : n ≠ 0) :
    predictTaken c (repeatUpdate c taken a target n btb) a =
      ((BpEntry.update c taken target)^[n] (trainedEntry c btb a)).predicts c := by
  obtain ⟨n, rfl⟩ := Nat.exists_eq_succ_of_ne_zero hn
  rw [repeatUpdate_eq_iterate, Function.iterate_succ_apply', Function.iterate_succ_apply',
    predictTaken_btbUpdate hc (iterate_btbUpdate_ok hc hbtb taken target n),
    trainedEntry_iterate_btbUpdate hc hbtb]

end Repeated

/-- Updates that do not reset the entry train it every time (41_branch_predictor R136). -/
theorem iterate_update_trains {taken : Bool} {target : Word} (c : CoreConfig) (n : Nat) {e : BpEntry}
    (h : taken = false ∨ e.target = target) :
    (BpEntry.update c taken target)^[n] e = (BpEntry.train c taken)^[n] e := by
  induction n generalizing e with
  | zero => rfl
  | succ n ih =>
    rw [Function.iterate_succ_apply, Function.iterate_succ_apply, BpEntry.update_trains h, ih (e := e.train c taken) h]

/-- The entry follows enough equal updates: L of them settle the history, and the counter it then selects is stepped by
the rest; a first update that resets the entry leaves every counter one below mean_state (41_branch_predictor R143). -/
theorem predicts_iterate_update {c : CoreConfig} {e : BpEntry} (h : e.ok c) (taken : Bool) (target : Word) {n : Nat}
    (hn : c.predictionLevel + max c.meanState 2 ≤ n) :
    ((BpEntry.update c taken target)^[n] e).predicts c = taken := by
  obtain ⟨m, rfl⟩ : ∃ m, n = m + c.predictionLevel := ⟨n - c.predictionLevel, by omega⟩
  have hmean : c.meanState ≤ m := by omega
  cases taken with
  | false => rw [iterate_update_trains c _ (.inl rfl), predicts_of_notTaken h hmean]
  | true =>
    by_cases htarget : e.target = target
    · rw [iterate_update_trains c _ (.inr htarget), predicts_of_taken h (fun v _ => Nat.zero_le v) (by omega)]
    · obtain ⟨m, rfl⟩ : ∃ k, m = k + 1 := ⟨m - 1, by omega⟩
      have hdefault : ∀ v ∈ (BpEntry.fresh c target).stateTable, c.defaultState ≤ v :=
        fun v hv => (List.eq_of_mem_replicate hv).ge
      have htrained : (BpEntry.update c true target)^[m + c.predictionLevel] (.fresh c target) =
          (BpEntry.train c true)^[m + c.predictionLevel] (.fresh c target) := iterate_update_trains c _ (.inr rfl)
      rw [Nat.add_right_comm, Function.iterate_succ_apply, BpEntry.update_newTarget htarget,
        htrained, predicts_of_taken (BpEntry.fresh_ok c target) hdefault]
      unfold CoreConfig.defaultState
      omega

/-- Settles O19: the prediction after the updates is that of the entry they all update. -/
theorem repeatedOutcomeSaturates : Obligations.RepeatedOutcomeSaturates := by
  intro c btb taken a target n hc hbtb hn
  rw [predictTaken_repeatUpdate hc hbtb taken target (by omega)]
  exact predicts_iterate_update (getElem?_trainedEntry hc hbtb).2 taken target hn

end Sys2Proof.Machine
end

section
/-!
SUPPORT. The BTB over a whole step (10_state R29 to R31). Fetch's lookups and Memory's update are the only operations
on it, and both keep its shape; Decode, Execute and Writeback leave it alone.
-/

namespace Sys2Proof.Machine

/-- Fetch's lookups keep the shape of the BTB (43_stages R186). -/
theorem lookupBtb_ok {s : State} (h : BtbInv s) : BtbOk s.config (lookupBtb s) := by
  obtain ⟨hc, hbtb⟩ := h
  have honce := tagRead_ok (a := s.pc) hc hbtb
  unfold lookupBtb
  dsimp only
  split
  · exact tagRead_ok hc honce
  · exact honce

/-- A state with the configuration and the BTB of another keeps its predictor invariant. -/
theorem BtbInv.of_eq {s t : State} (h : BtbInv s) (hconfig : t.config = s.config) (hbtb : t.btb = s.btb) :
    BtbInv t := by
  obtain ⟨hc, hok⟩ := h
  exact ⟨hconfig ▸ hc, hconfig ▸ hbtb ▸ hok⟩

/-- A statement keeps the invariant after any other, run or not (60_exceptions R283). -/
theorem BtbInv.andThen {s : State} {f : State → State} (h : BtbInv s) (hf : ∀ {u : State}, BtbInv u → BtbInv (f u)) :
    BtbInv (s.andThen f) := by
  by_cases hrun : s.runStatus = .running
  · rw [State.andThen_running hrun]
    exact hf h
  · rwa [State.andThen_ended hrun]

/-! ### The operations that leave the BTB alone -/

section Operations
variable (s : State)

@[simp] theorem State.takePacket_btb : s.takePacket.btb = s.btb := by
  rcases takePacket_cases s with ⟨-, h⟩ | ⟨-, -, h⟩ | ⟨p, q, -, -, h⟩
  · rw [h]
  · rw [h]
  · rw [h]

@[simp] theorem State.validateAll_btb (rs : List InstrRec) : (State.validateAll rs s).btb = s.btb := by
  induction rs generalizing s with
  | nil => rfl
  | cons r rs ih => exact (ih (s.validate r.body.dst)).trans (s.validate_btb r.body.dst)

@[simp] theorem State.redirect_btb : s.redirect.btb = s.btb := by
  unfold State.redirect
  dsimp only
  split
  · split
    · rfl
    · rfl
  · rfl

@[simp] theorem State.broadcastFlush_btb (pc target : Word) : (s.broadcastFlush pc target).btb = s.btb := by
  unfold State.broadcastFlush
  refine State.andThen_keeps State.btb ?_ fun _ => rfl
  refine State.andThen_keeps State.btb ?_ fun u => u.putFetchTarget_btb target
  refine State.andThen_keeps State.btb ?_ State.putMemoryFlush_btb
  refine State.andThen_keeps State.btb ?_ State.putExecuteFlush_btb
  exact State.andThen_keeps State.btb s.putFetchFlush_btb State.putDecodeFlush_btb

@[simp] theorem State.accessAndForward_btb (access : Access) (r : InstrRec) (missed : Bool) :
    (s.accessAndForward access r missed).btb = s.btb := by
  unfold State.accessAndForward
  split
  · rfl
  · exact State.andThen_keeps State.btb (State.putMemory2Writeback_btb _ _) fun _ => by cases missed <;> rfl

@[simp] theorem State.checkRecord_btb (record : RetireRecord) : (s.checkRecord record).btb = s.btb := by
  rcases checkRecord_cases record s with ⟨-, h⟩ | ⟨ref', -, -, h⟩ | ⟨other, ref', -, h⟩
  · rw [h]
  · rw [h]
  · rw [h]; rfl

@[simp] theorem State.endCycle_btb : s.endCycle.btb = s.btb := by
  rcases endCycle_cases s with ⟨-, h⟩ | ⟨-, -, h⟩ | ⟨-, -, h⟩
  · rw [h]; rfl
  · rw [h]
  · rw [h]

end Operations

section Stages
variable {s t : State}

/-! ### Decode, Execute and Writeback leave the BTB alone -/

theorem issueOp_btb {b : Body} (h : issueOp b s = .next t) : t.btb = s.btb := by
  unfold issueOp at h
  split at h
  · cases h
  · split at h
    · cases h
      exact State.andThen_keeps State.btb (State.putDecode2Execute_btb _ _) fun _ => rfl
    · cases h
      exact State.andThen_keeps State.btb (State.putDecode2FetchStall_btb _) fun _ => rfl

theorem rejectOp_btb {code : Poison} {pc : Word} (h : rejectOp code pc s = .next t) : t.btb = s.btb := by
  unfold rejectOp at h
  split at h
  · exact issueOp_btb h
  · split at h <;> cases h <;> rfl

theorem decodeWork_btb (h : decodeWork s = .next t) (ha : s.acting = .decode) : t.btb = s.btb := by
  unfold decodeWork at h
  split at h
  · cases h; exact s.takePacket_btb
  · rw [← s.takePacket_btb]
    split at h
    · rw [exec_decode (by rw [State.takePacket_acting, ha])] at h
      exact issueOp_btb h
    · exact rejectOp_btb h
    · exact rejectOp_btb h

theorem decodeOperate_btb (h : decodeOperate s = .next t) (ha : s.acting = .decode) : t.btb = s.btb := by
  unfold decodeOperate at h
  dsimp only at h
  split at h
  · cases h; rfl
  · exact (decodeWork_btb h ha).trans rfl

theorem decodeStage_btb (h : decodeStage s = .next t) : t.btb = s.btb := by
  refine clockStage_keeps State.btb ?_ (fun hop => ?_) h
  · rfl
  · exact (decodeOperate_btb hop rfl).trans rfl

theorem executeOp_btb {f : InstrRec → InstrRec} (h : executeOp f s = .next t) : t.btb = s.btb := by
  unfold executeOp at h
  split at h
  · cases h
  · cases h
    exact State.andThen_keeps State.btb (State.putExecute2Memory_btb _ _) fun _ => rfl

theorem executeWork_btb (h : executeWork s = .next t) (ha : s.acting = .execute) : t.btb = s.btb := by
  unfold executeWork at h
  split at h
  · cases h; rfl
  · split at h
    · rw [exec_execute ha] at h
      exact executeOp_btb h
    · exact executeOp_btb h

theorem executeOperate_btb (h : executeOperate s = .next t) (ha : s.acting = .execute) : t.btb = s.btb := by
  unfold executeOperate at h
  dsimp only at h
  split at h
  · cases h; exact State.validateAll_btb _ _
  · exact (executeWork_btb h ha).trans rfl

theorem executeStage_btb (h : executeStage s = .next t) : t.btb = s.btb := by
  refine clockStage_keeps State.btb ?_ (fun hop => ?_) h
  · rfl
  · exact (executeOperate_btb hop rfl).trans rfl

theorem retireOp_btb {b : Body} (h : retireOp b s = .next t) : t.btb = s.btb := by
  unfold retireOp at h
  split at h
  · cases h
  · cases h
    refine State.andThen_keeps State.btb ?_ fun _ => rfl
    exact (State.checkRecord_btb _ _).trans rfl

theorem writebackStage_btb (h : writebackStage s = .next t) : t.btb = s.btb := by
  rcases writebackStage_cases h with rfl | ⟨r, q, -, hretire⟩
  · rfl
  · exact (retireOp_btb hretire).trans rfl

/-! ### Fetch and Memory keep its shape -/

theorem BtbInv.fetchWord (h : BtbInv s) : BtbInv s.fetchWord := by
  obtain ⟨hc, hbtb⟩ := h
  have hlookup : BtbInv { s with btb := lookupBtb s } := ⟨hc, lookupBtb_ok ⟨hc, hbtb⟩⟩
  unfold State.fetchWord
  split
  · exact ⟨hc, hbtb⟩
  · refine BtbInv.andThen ?_ fun hu => hu
    exact hlookup.of_eq (State.putFetch2Decode_config _ _) (State.putFetch2Decode_btb _ _)

theorem BtbInv.fetchStage (h : BtbInv s) (hstage : fetchStage s = .next t) : BtbInv t := by
  unfold Machine.fetchStage at hstage
  dsimp only at hstage
  split at hstage
  · cases hstage; exact h
  · cases hstage
    refine BtbInv.andThen ?_ BtbInv.fetchWord
    exact h.of_eq (congrArg RetiredPart.config (State.redirect_retired _)) (State.redirect_btb _)

/-- Memory updates the BTB by the outcome of its instruction; the signals and the access leave it alone
(43_stages R205 to R209). -/
theorem memoryOp_btb {i : Instr} {access : Access} (h : memoryOp i access s = .next t) :
    ∃ r : InstrRec, t.btb = btbUpdate s.config s.btb (actuallyTaken i r.out) r.pc r.out.newPc := by
  unfold memoryOp at h
  split at h
  · cases h
  · next r q _ =>
    cases h
    refine ⟨r, State.andThen_keeps State.btb ?_ fun u => u.accessAndForward_btb _ _ _⟩
    split
    · exact State.broadcastFlush_btb _ _ _
    · rfl

/-- What Memory may do to the BTB: leave it alone, or update it once (43_stages R203, R205). -/
def State.UpdatesBtb (s t : State) : Prop :=
  t.btb = s.btb ∨ ∃ taken pc target, t.btb = btbUpdate s.config s.btb taken pc target

theorem memoryWork_updatesBtb (h : memoryWork s = .next t) (ha : s.acting = .memory) : s.UpdatesBtb t := by
  unfold memoryWork at h
  split at h
  · cases h; exact .inl rfl
  · split at h
    · rw [exec_memory ha] at h
      obtain ⟨r, hr⟩ := memoryOp_btb h
      exact .inr ⟨_, r.pc, r.out.newPc, hr⟩
    · cases h; exact .inl rfl
    · cases h; exact .inl rfl

theorem memoryOperate_updatesBtb (h : memoryOperate s = .next t) (ha : s.acting = .memory) : s.UpdatesBtb t := by
  unfold memoryOperate at h
  dsimp only at h
  split at h
  · cases h; exact .inl (State.validateAll_btb _ _)
  · have hwork := memoryWork_updatesBtb h ha
    exact hwork

theorem memoryStage_updatesBtb (h : memoryStage s = .next t) : s.UpdatesBtb t := by
  unfold memoryStage clockStage at h
  dsimp only at h
  split at h
  · cases h; exact .inl rfl
  · have hoperate := memoryOperate_updatesBtb h rfl
    exact hoperate

theorem BtbInv.memoryStage (h : BtbInv s) (hstage : memoryStage s = .next t) : BtbInv t := by
  have hconfig : t.config = s.config := congrArg RetiredPart.config (memoryStage_retired hstage)
  rcases memoryStage_updatesBtb hstage with hkept | ⟨taken, pc, target, hupdated⟩
  · exact h.of_eq hconfig hkept
  · obtain ⟨hc, hbtb⟩ := h
    refine ⟨hconfig ▸ hc, ?_⟩
    rw [hconfig, hupdated]
    exact btbUpdate_ok hc hbtb taken target

/-! ### The cycle -/

/-- Stages that keep the invariant keep it one after the other (43_stages R217). -/
theorem BtbInv.andThenStage {r : Result} {f : State → Result} (hr : ∀ {u : State}, r = .next u → BtbInv u)
    (hf : ∀ {u v : State}, BtbInv u → f u = .next v → BtbInv v) (h : andThenStage r f = .next t) : BtbInv t := by
  obtain ⟨u, hu, ⟨-, hfu⟩ | ⟨-, rfl⟩⟩ := andThenStage_next h
  · exact hf (hr hu) hfu
  · exact hr hu

theorem BtbInv.writebackStage (h : BtbInv s) (hrun : s.runStatus = .running) (hstage : writebackStage s = .next t) :
    BtbInv t :=
  h.of_eq (writebackStage_movesRegisters hrun hstage).config_eq (writebackStage_btb hstage)

theorem BtbInv.cycleStep (h : BtbInv s) (hcycle : cycleStep s = .next t) : BtbInv t := by
  obtain ⟨w, hw, hrest⟩ := andThenStage_next hcycle
  have hmemory : BtbInv w := by
    refine BtbInv.andThenStage (BtbInv.andThenStage (BtbInv.andThenStage
      (fun hf => BtbInv.fetchStage (s := s.beginCycle) h hf) fun hu hd => ?_) fun hu he => ?_) BtbInv.memoryStage hw
    · exact hu.of_eq (congrArg RetiredPart.config (decodeStage_retired hd)) (decodeStage_btb hd)
    · exact hu.of_eq (congrArg RetiredPart.config (executeStage_retired he)) (executeStage_btb he)
  rcases hrest with ⟨hrun, hwb⟩ | ⟨-, rfl⟩
  · exact hmemory.writebackStage hrun hwb
  · exact hmemory

end Stages

/-- Settles O54: the stages of a cycle keep the invariant one after the other, and the driver leaves configuration and
BTB alone. -/
theorem stepKeepsPredictorShape : Obligations.StepKeepsPredictorShape := by
  intro s t h hnext
  rcases step_cases s with ⟨-, hstep⟩ | ⟨-, -, hstep⟩ | ⟨-, -, hstep⟩
  · cases hstep.symm.trans hnext; exact h
  · cases hstep.symm.trans hnext; exact h
  · refine BtbInv.andThenStage h.cycleStep (fun {u v} hu hend => ?_) (hstep.symm.trans hnext)
    cases hend
    exact hu.of_eq (congrArg RetiredPart.config (endCycle_retired u)) u.endCycle_btb

end Sys2Proof.Machine
end

section
/-!
SUPPORT. The scoreboard (42_scoreboard R160 to R168): what a set bit does to every bit, and the balance of the bits with
a list of records as records join it and leave it.
-/

namespace Sys2Proof.Machine

/-! ### One operation (R160 to R165) -/

/-- Register 0 alone may be untracked (42_scoreboard R160). -/
theorem tracked_iff {c : CoreConfig} {r : RegIdx} : tracked c r = true ↔ r ≠ 0 ∨ c.r0Tracked = true := by
  rw [tracked, Bool.or_eq_true, bne_iff_ne, ← Fin.val_ne_zero_iff]

theorem sbSet_some_tracked {c : CoreConfig} {r : RegIdx} (h : tracked c r = true) (sb : Vector Bool 33) (bit : Bool) :
    sbSet c sb bit (some r) = sb.set r.val bit := if_pos h

theorem sbSet_some_untracked {c : CoreConfig} {r : RegIdx} (h : tracked c r = false) (sb : Vector Bool 33) (bit : Bool) :
    sbSet c sb bit (some r) = sb := if_neg (by simp [h])

theorem sbCheck_tracked {c : CoreConfig} {r : RegIdx} (h : tracked c r = true) (sb : Vector Bool 33) :
    sbCheck c sb (some r) = sb[r.val] := by simp [sbCheck, h]

theorem sbCheck_untracked {c : CoreConfig} {r : RegIdx} (h : tracked c r = false) (sb : Vector Bool 33) :
    sbCheck c sb (some r) = true := by simp [sbCheck, h]

/-- Every bit after a bit has been set: the tracked destination's is the one that moves (42_scoreboard R162, R163). -/
theorem sbSet_getElem (c : CoreConfig) (sb : Vector Bool 33) (bit : Bool) (dst : Option RegIdx) (q : RegIdx) :
    (sbSet c sb bit dst)[q.val] = if dst = some q ∧ tracked c q = true then bit else sb[q.val] := by
  cases dst with
  | none => simp [sbSet]
  | some r =>
    cases htracked : tracked c r with
    | false =>
      rw [sbSet_some_untracked htracked, if_neg]
      rintro ⟨hr, hq⟩
      cases hr
      cases htracked.symm.trans hq
    | true =>
      rw [sbSet_some_tracked htracked]
      by_cases hr : r = q
      · subst hr
        simp [htracked]
      · rw [Vector.getElem_set_ne _ _ (Fin.val_ne_of_ne hr), if_neg fun h => hr (Option.some.inj h.1)]

/-- Settles O12: the register write is `readReg_write`, and validation sets the bit of a tracked destination. -/
theorem writeDstWritesAndValidates : Obligations.WriteDstWritesAndValidates := by
  intro s dst v r
  refine ⟨readReg_write s.x s.hilo v dst r, ?_⟩
  simp only [State.writeDst_sb, sbSet_getElem, tracked_iff]

/-- Settles O13: both operations set one bit, of a tracked register, and the check reads the bit of one. -/
theorem scoreboardOperations : Obligations.ScoreboardOperations := by
  intro s r q
  refine ⟨tracked_iff, fun h => ⟨sbCheck_tracked h _, ?_, ?_⟩, fun h => ⟨sbCheck_untracked h _, ?_, ?_⟩,
    fun hne => ?_, rfl, rfl, rfl⟩
  · simp [sbCheck_tracked h, sbSet_getElem, h]
  · simp [sbCheck_tracked h, sbSet_getElem, h]
  · exact sbSet_some_untracked h s.sb false
  · exact sbSet_some_untracked h s.sb true
  · simp [sbSet_getElem, hne.symm]

/-! ### The balance with a list of records (R167, R168) -/

/-- The tracked destinations of a list of records. -/
def trackedDsts (c : CoreConfig) (rs : List InstrRec) : List RegIdx :=
  (rs.filterMap fun r => r.body.dst).filter fun r => tracked c r

/-- A bit is clear exactly for the tracked destinations of the records, and no two records have one
(42_scoreboard R167). -/
def Balances (c : CoreConfig) (sb : Vector Bool 33) (rs : List InstrRec) : Prop :=
  (∀ r : RegIdx, sb[r.val] = false ↔ r ∈ trackedDsts c rs) ∧ (trackedDsts c rs).Nodup

theorem scoreboardBalanced_iff {s : State} : scoreboardBalanced s ↔ Balances s.config s.sb s.inFlight := Iff.rfl

section Balance
variable {c : CoreConfig} {sb : Vector Bool 33} {r : InstrRec} {rs rs' : List InstrRec}

/-- A record adds its destination, if it has a tracked one. -/
theorem trackedDsts_cons :
    trackedDsts c (r :: rs) = (r.body.dst.filter (tracked c)).toList ++ trackedDsts c rs := by
  unfold trackedDsts
  rw [List.filterMap_cons]
  cases r.body.dst with
  | none => rfl
  | some d => cases htracked : tracked c d <;> simp [Option.filter, htracked]

theorem mem_trackedDsts_cons {q : RegIdx} :
    q ∈ trackedDsts c (r :: rs) ↔ (r.body.dst = some q ∧ tracked c q = true) ∨ q ∈ trackedDsts c rs := by
  simp [trackedDsts_cons]

theorem trackedDsts_cons_nodup :
    (trackedDsts c (r :: rs)).Nodup ↔
      (∀ q, r.body.dst = some q → tracked c q = true → q ∉ trackedDsts c rs) ∧ (trackedDsts c rs).Nodup := by
  rw [trackedDsts_cons, List.nodup_append', and_iff_right (Option.toList_nodup _), and_comm]
  simp [List.Disjoint]

/-- The balance looks at the bodies of the records only, not at what Execute and Memory set in them. -/
theorem Balances.of_bodies (h : Balances c sb rs) (hbodies : rs'.map InstrRec.body = rs.map InstrRec.body) :
    Balances c sb rs' := by
  have hdsts : trackedDsts c rs' = trackedDsts c rs := by
    have hfilterMap (l : List InstrRec) : (l.filterMap fun r => r.body.dst) = (l.map InstrRec.body).filterMap Body.dst := by
      rw [List.filterMap_map]; rfl
    rw [trackedDsts, hfilterMap, hbodies, ← hfilterMap, trackedDsts]
  unfold Balances
  rwa [hdsts]

/-- The order of the records does not matter. -/
theorem Balances.perm (h : Balances c sb rs) (hperm : rs.Perm rs') : Balances c sb rs' := by
  obtain ⟨hbits, hnodup⟩ := h
  have hdsts : (trackedDsts c rs).Perm (trackedDsts c rs') := (hperm.filterMap _).filter _
  exact ⟨fun q => (hbits q).trans hdsts.mem_iff, hdsts.nodup_iff.mp hnodup⟩

/-- Decode's hazard test lets a record join only when no record has its destination (42_scoreboard R167). -/
theorem Balances.issue (h : Balances c sb rs) (hcheck : sbCheck c sb r.body.dst = true) :
    Balances c (sbSet c sb false r.body.dst) (r :: rs) := by
  obtain ⟨hbits, hnodup⟩ := h
  refine ⟨fun q => ?_, trackedDsts_cons_nodup.mpr ⟨fun q hdst hq hmem => ?_, hnodup⟩⟩
  · rw [sbSet_getElem, mem_trackedDsts_cons, ← hbits q]
    split
    · next hq => simp [hq]
    · next hq => simp [hq]
  · rw [hdst, sbCheck_tracked hq, ← Bool.not_eq_false] at hcheck
    exact hcheck ((hbits q).mpr hmem)

/-- A record that retires or is discarded validates its destination, which no other record has (42_scoreboard R168). -/
theorem Balances.release (h : Balances c sb (r :: rs)) : Balances c (sbSet c sb true r.body.dst) rs := by
  obtain ⟨hbits, hnodup⟩ := h
  obtain ⟨hunique, hnodup⟩ := trackedDsts_cons_nodup.mp hnodup
  refine ⟨fun q => ?_, hnodup⟩
  rw [sbSet_getElem]
  split
  · next hq => simp [hunique q hq.1 hq.2]
  · next hq => rw [hbits, mem_trackedDsts_cons, or_iff_right hq]

end Balance

/-- A flush validates the destinations of the records it discards and changes nothing else (43_stages R198, R202). -/
theorem validateAll_balances {s : State} {discarded kept : List InstrRec}
    (h : Balances s.config s.sb (discarded ++ kept)) :
    ∃ sb, State.validateAll discarded s = { s with sb := sb } ∧ Balances s.config sb kept := by
  induction discarded generalizing s with
  | nil => exact ⟨s.sb, rfl, h⟩
  | cons r rs ih => exact ih (s := s.validate r.body.dst) h.release

end Sys2Proof.Machine
end

section
/-!
SUPPORT. Ports inside a cycle (40_port_fabric R103 to R106, R110): what a reader finds in a port of at most one old entry,
and what it leaves when an entry of this cycle may stand behind it.
-/

namespace Sys2Proof.Machine

section Shapes
variable {α : Type} {t : Nat} {q : Port α}

theorem writtenLastCycle_nil (t : Nat) : writtenLastCycle t ([] : Port α) := by simp [writtenLastCycle]

/-- The entry a cycle writes into an empty port is the one it hands to the next cycle. -/
theorem writtenLastCycle_written (t : Nat) (v : α) : writtenLastCycle (t + 1) (written t v []) := by
  simp [writtenLastCycle, written]

theorem writtenLastCycle.singleReady (h : writtenLastCycle t q) : singleReady t q := by
  obtain ⟨hlength, hwritten⟩ := h
  exact ⟨hlength, fun e he => Nat.lt_of_succ_le (hwritten e he).le⟩

theorem singleReady.noWriteYet (h : singleReady t q) : noWriteYet t q := by
  obtain ⟨-, hready⟩ := h
  exact fun e he => (hready e he).ne

/-- What is ready stays ready. -/
theorem singleReady.succ (h : singleReady t q) : singleReady (t + 1) q := by
  obtain ⟨hlength, hready⟩ := h
  exact ⟨hlength, fun e he => (hready e he).trans (Nat.lt_succ_self t)⟩

theorem singleReady.eq_nil_or_singleton (h : singleReady t q) : q = [] ∨ ∃ e, q = [e] ∧ e.cycleWritten < t := by
  obtain ⟨hlength, hready⟩ := h
  match q with
  | [] => exact .inl rfl
  | [e] => exact .inr ⟨e, rfl, hready e (List.mem_singleton.mpr rfl)⟩

/-- A read of a port with at most one entry, and that ready, empties it. -/
theorem singleReady.portAfterRead_eq (h : singleReady t q) : portAfterRead t q = [] := by
  rcases h.eq_nil_or_singleton with rfl | ⟨e, rfl, hready⟩
  · exact portAfterRead_nil t
  · exact portAfterRead_cons_ready hready []

/-- A signal that carries `true` only is raised exactly when the port is not empty (40_port_fabric R112). -/
theorem singleReady.portRaised_iff {q : Port Bool} (h : singleReady t q) (hvalue : ∀ e ∈ q, e.value = true) :
    portRaised t q = true ↔ q ≠ [] := by
  rcases h.eq_nil_or_singleton with rfl | ⟨e, rfl, hready⟩
  · simp [portRaised_nil]
  · simp [portRaised_cons_ready hready, hvalue]

theorem singleReady.eq_nil_of_not_raised {q : Port Bool} (h : singleReady t q) (hvalue : ∀ e ∈ q, e.value = true)
    (hlow : ¬ portRaised t q = true) : q = [] :=
  not_not.mp (mt (h.portRaised_iff hvalue).mpr hlow)

/-- A port whose reader has not acted yet and whose writer may have: at most one ready entry, and behind it at most one
entry of cycle `t`. -/
def oldAndNew (t : Nat) (q : Port α) : Prop :=
  ∃ old new, q = old ++ new ∧ singleReady t old ∧ writtenLastCycle (t + 1) new

theorem singleReady.oldAndNew (h : singleReady t q) : oldAndNew t q :=
  ⟨q, [], (List.append_nil q).symm, h, writtenLastCycle_nil _⟩

theorem singleReady.oldAndNew_written (h : singleReady t q) (v : α) : Machine.oldAndNew t (written t v q) :=
  ⟨q, written t v [], rfl, h, writtenLastCycle_written t v⟩

/-- A read that finds nothing ready leaves the entry of this cycle. -/
theorem oldAndNew.of_portRead_none (h : oldAndNew t q) (hread : portRead t q = none) : writtenLastCycle (t + 1) q := by
  obtain ⟨old, new, rfl, hold, hnew⟩ := h
  rcases hold.eq_nil_or_singleton with rfl | ⟨e, rfl, hready⟩
  · exact hnew
  · cases (portRead_cons_ready hready new).symm.trans hread

/-- A read that finds a ready entry leaves the entry of this cycle. -/
theorem oldAndNew.of_portRead_some {v : α} {rest : Port α} (h : oldAndNew t q) (hread : portRead t q = some (v, rest)) :
    writtenLastCycle (t + 1) rest := by
  obtain ⟨old, new, rfl, hold, hnew⟩ := h
  rcases hold.eq_nil_or_singleton with rfl | ⟨e, rfl, hready⟩
  · obtain ⟨e, hq, -, hready⟩ := portRead_some hread
    obtain ⟨-, hwritten⟩ := hnew
    rw [List.nil_append] at hq
    have hfresh := hwritten e (hq ▸ List.mem_cons_self)
    omega
  · cases (portRead_cons_ready hready new).symm.trans hread
    exact hnew

theorem portFlushed_of_fresh (h : ∀ e ∈ q, t ≤ e.cycleWritten) : portFlushed t q = [] := by
  simpa [portFlushed] using h

theorem portKept_of_fresh (h : ∀ e ∈ q, t ≤ e.cycleWritten) : portKept t q = q := by
  simpa [portKept] using h

/-- A flush parts the older entries from the entry of this cycle (40_port_fabric R105). -/
theorem flush_old_append_new {old new : Port α} (hold : singleReady t old) (hnew : writtenLastCycle (t + 1) new) :
    portFlushed t (old ++ new) = old.map Entry.value ∧ portKept t (old ++ new) = new := by
  obtain ⟨-, hready⟩ := hold
  obtain ⟨-, hwritten⟩ := hnew
  have hfresh : ∀ e ∈ new, t ≤ e.cycleWritten := fun e he => (Nat.succ.inj (hwritten e he)).ge
  constructor
  · calc portFlushed t (old ++ new) = portFlushed t old ++ portFlushed t new := by simp [portFlushed]
      _ = old.map Entry.value := by rw [portFlushed_of_ready hready, portFlushed_of_fresh hfresh, List.append_nil]
  · calc portKept t (old ++ new) = portKept t old ++ portKept t new := List.filter_append _ _
      _ = new := by rw [portKept_of_ready hready, portKept_of_fresh hfresh, List.nil_append]

/-- A flush leaves the entry of this cycle. -/
theorem oldAndNew.portKept (h : oldAndNew t q) : writtenLastCycle (t + 1) (portKept t q) := by
  obtain ⟨old, new, rfl, hold, hnew⟩ := h
  rwa [(flush_old_append_new hold hnew).right]

/-- A flush loses no value: what it does not keep it discards. -/
theorem oldAndNew.map_value (h : oldAndNew t q) :
    q.map Entry.value = portFlushed t q ++ (Machine.portKept t q).map Entry.value := by
  obtain ⟨old, new, rfl, hold, hnew⟩ := h
  obtain ⟨hflushed, hkept⟩ := flush_old_append_new hold hnew
  rw [hflushed, hkept, List.map_append]

theorem map_value_of_portRead {v : α} {rest : Port α} (h : portRead t q = some (v, rest)) :
    q.map Entry.value = v :: rest.map Entry.value := by
  obtain ⟨e, rfl, rfl, -⟩ := portRead_some h
  rfl

theorem map_value_written (t : Nat) (v : α) (q : Port α) :
    (written t v q).map Entry.value = q.map Entry.value ++ [v] := by
  simp [written]

theorem mem_of_portRead {v : α} {rest : Port α} (h : portRead t q = some (v, rest)) :
    (∃ e ∈ q, e.value = v) ∧ ∀ e ∈ rest, e ∈ q := by
  obtain ⟨e, rfl, hvalue, -⟩ := portRead_some h
  exact ⟨⟨e, List.mem_cons_self, hvalue⟩, fun _ => List.mem_cons_of_mem e⟩

theorem forall_mem_written {p : α → Prop} {v : α} (hq : ∀ e ∈ q, p e.value) (hv : p v) :
    ∀ e ∈ written t v q, p e.value :=
  List.forall_mem_append.mpr ⟨hq, List.forall_mem_singleton.mpr hv⟩

end Shapes

/-- A flush of the port `q` releases the destinations of the records it discards (43_stages R198, R202). -/
theorem validateAll_portFlushed {s : State} {t : Nat} {q : Port InstrRec} {older younger : List InstrRec}
    (hq : oldAndNew t q) (h : Balances s.config s.sb (older ++ q.map Entry.value ++ younger)) :
    ∃ sb, State.validateAll (portFlushed t q) s = { s with sb := sb } ∧
      Balances s.config sb (older ++ (portKept t q).map Entry.value ++ younger) := by
  refine validateAll_balances (h.perm ?_)
  rw [hq.map_value, List.append_assoc, List.append_assoc, List.append_assoc]
  exact List.perm_append_comm_assoc ..

end Sys2Proof.Machine
end

section
/-!
SUPPORT. The pipeline inside a cycle (40_port_fabric R110, 42_scoreboard R167, R168): what holds after each stage of a
cycle that began with the pipeline invariant and has raised no fatal.
-/

namespace Sys2Proof.Machine

/-! ### What the stages share -/

/-- The stall ports of Execute, Memory and Writeback are empty: no stage writes them (43_stages R190). -/
def State.noLateStall (s : State) : Prop :=
  s.execute2DecodeStall = [] ∧ s.memory2ExecuteStall = [] ∧ s.writeback2MemoryStall = []

/-- The flush of the last cycle, as Memory's own port still shows it: one entry at most, `true`; Fetch's flush is read
or is the same one, and its target stands with it (43_stages R184, R207). -/
def State.flushInCycle (s : State) : Prop :=
  writtenLastCycle s.cycle s.memory2MemoryFlush ∧ (∀ e ∈ s.memory2MemoryFlush, e.value = true) ∧
    (s.memory2FetchFlush = [] ∨ s.memory2FetchFlush = s.memory2MemoryFlush) ∧
    s.memory2FetchTarget.map Entry.cycleWritten = s.memory2FetchFlush.map Entry.cycleWritten

/-- What Execute has passed on: executed, or poisoned (43_stages R200). -/
def InstrRec.pastExecute (r : InstrRec) : Prop := (∃ code, r.body = .poisoned code) ∨ r.result ≠ none

/-- What Memory has passed on: no poisoned record (43_stages R203). -/
def InstrRec.pastMemory (r : InstrRec) : Prop := (∃ i, r.body = .live i) ∧ r.result ≠ none

/-- The records in flight are as far as their ports say, and balance the scoreboard. -/
def State.recordsOk (s : State) : Prop :=
  (∀ e ∈ s.execute2Memory, e.value.pastExecute) ∧ (∀ e ∈ s.memory2Writeback, e.value.pastMemory) ∧
    Balances s.config s.sb s.inFlight

/-- What Fetch and Decode leave to the next cycle: one packet at most, and a stall exactly when Decode kept one
(43_stages R196). -/
def State.frontDone (s : State) : Prop :=
  singleReady (s.cycle + 1) s.fetch2Decode ∧ writtenLastCycle (s.cycle + 1) s.decode2FetchStall ∧
    (s.decode2FetchStall = [] ↔ s.idBuf = none) ∧ ∀ e ∈ s.decode2FetchStall, e.value = true

/-! ### After each stage -/

/-- The start of a cycle: the pipeline invariant of a running state, with Memory's flush port in place of Decode's. -/
structure CycleStart (s : State) : Prop where
  running : s.runStatus = .running
  noLateStall : s.noLateStall
  records : s.recordsOk
  stall : writtenLastCycle s.cycle s.decode2FetchStall
  stallRaised : ∀ e ∈ s.decode2FetchStall, e.value = true
  stallHeld : s.decode2FetchStall = [] ↔ s.idBuf = none
  flushWritten : writtenLastCycle s.cycle s.memory2MemoryFlush
  flushRaised : ∀ e ∈ s.memory2MemoryFlush, e.value = true
  decodeFlush : s.memory2DecodeFlush = s.memory2MemoryFlush
  executeFlush : s.memory2ExecuteFlush = s.memory2MemoryFlush
  fetchFlush : singleReady s.cycle s.memory2FetchFlush
  fetchFlushRaised : ∀ e ∈ s.memory2FetchFlush, e.value = true
  fetchTarget : s.memory2FetchTarget.map Entry.cycleWritten = s.memory2FetchFlush.map Entry.cycleWritten
  deferred : s.memory2FetchFlush = [] ∨ s.memory2FetchFlush = s.memory2MemoryFlush ∨ s.decode2FetchStall = []
  packet : singleReady s.cycle s.fetch2Decode
  issued : writtenLastCycle s.cycle s.decode2Execute
  executed : writtenLastCycle s.cycle s.execute2Memory
  forwarded : writtenLastCycle s.cycle s.memory2Writeback

theorem cycleStart_of_portsOk {s : State} (hrun : s.runStatus = .running) (hcontrol : controlPortsOk s)
    (hdata : dataPortsOk s) (hbalanced : scoreboardBalanced s) : CycleStart s := by
  obtain ⟨hdstall, hmstall, hwstall, hstall, hheld, hflush, hexecuteFlush, hmemoryFlush, hfetchFlush, htarget, hflushed,
    hdeferred, hraised⟩ := hcontrol
  obtain ⟨hpacket, hissued, hexecuted, hforwarded, hpastExecute, hpastMemory⟩ := hdata
  obtain ⟨hstallRaised, hfetchFlushRaised⟩ := List.forall_mem_append.mp hraised
  rw [← hmemoryFlush] at hflush hexecuteFlush hflushed hdeferred
  have hflushRaised : ∀ e ∈ s.memory2MemoryFlush, e.value = true := by
    rcases hflushed with hnone | hsame
    · simp [hnone]
    · rwa [← hsame]
  exact {
    running := hrun, noLateStall := ⟨hdstall, hmstall, hwstall⟩, records := ⟨hpastExecute, hpastMemory, hbalanced⟩
    stall := hstall, stallRaised := hstallRaised, stallHeld := hheld
    flushWritten := hflush, flushRaised := hflushRaised, decodeFlush := hmemoryFlush.symm, executeFlush := hexecuteFlush
    fetchFlush := hfetchFlush, fetchFlushRaised := hfetchFlushRaised, fetchTarget := htarget, deferred := hdeferred
    packet := hpacket, issued := hissued, executed := hexecuted, forwarded := hforwarded }

/-- Fetch has read its stall, and its flush unless it stalled; a new packet may stand behind an old one, which then has
room in Decode. -/
structure AfterFetch (s : State) : Prop where
  running : s.runStatus = .running
  noLateStall : s.noLateStall
  flush : s.flushInCycle
  records : s.recordsOk
  stallRead : s.decode2FetchStall = []
  decodeFlush : s.memory2DecodeFlush = s.memory2MemoryFlush
  executeFlush : s.memory2ExecuteFlush = s.memory2MemoryFlush
  fetched : oldAndNew s.cycle s.fetch2Decode
  fetchStalled : s.idBuf ≠ none → singleReady s.cycle s.fetch2Decode
  issued : writtenLastCycle s.cycle s.decode2Execute
  executed : writtenLastCycle s.cycle s.execute2Memory
  forwarded : writtenLastCycle s.cycle s.memory2Writeback

/-- Decode has taken its packet and saw no flush (43_stages R192). -/
structure BeforeIssue (s : State) : Prop where
  running : s.runStatus = .running
  noLateStall : s.noLateStall
  flush : s.flushInCycle
  records : s.recordsOk
  stallRead : s.decode2FetchStall = []
  noFlush : s.memory2MemoryFlush = []
  decodeFlush : s.memory2DecodeFlush = []
  executeFlush : s.memory2ExecuteFlush = []
  fetched : singleReady (s.cycle + 1) s.fetch2Decode
  issued : writtenLastCycle s.cycle s.decode2Execute
  executed : writtenLastCycle s.cycle s.execute2Memory
  forwarded : writtenLastCycle s.cycle s.memory2Writeback

/-- Decode has read its flush, and may have issued a record or stalled Fetch. -/
structure AfterDecode (s : State) : Prop where
  running : s.runStatus = .running
  noLateStall : s.noLateStall
  flush : s.flushInCycle
  records : s.recordsOk
  front : s.frontDone
  flushOrStall : s.memory2MemoryFlush = [] ∨ s.decode2FetchStall = []
  decodeFlush : s.memory2DecodeFlush = []
  executeFlush : s.memory2ExecuteFlush = s.memory2MemoryFlush
  issued : oldAndNew s.cycle s.decode2Execute
  executed : writtenLastCycle s.cycle s.execute2Memory
  forwarded : writtenLastCycle s.cycle s.memory2Writeback

/-- Execute has read its flush, and has discarded or executed its record. -/
structure AfterExecute (s : State) : Prop where
  running : s.runStatus = .running
  noLateStall : s.noLateStall
  flush : s.flushInCycle
  records : s.recordsOk
  front : s.frontDone
  flushOrStall : s.memory2MemoryFlush = [] ∨ s.decode2FetchStall = []
  decodeFlush : s.memory2DecodeFlush = []
  executeFlush : s.memory2ExecuteFlush = []
  issued : writtenLastCycle (s.cycle + 1) s.decode2Execute
  executed : oldAndNew s.cycle s.execute2Memory
  forwarded : writtenLastCycle s.cycle s.memory2Writeback

/-- Memory has discarded or forwarded its record, and the control ports are as the next cycle finds them. -/
structure AfterMemory (s : State) : Prop where
  running : s.runStatus = .running
  control : controlPortsOk (s.nextCycle .fetch)
  records : s.recordsOk
  fetched : singleReady (s.cycle + 1) s.fetch2Decode
  issued : writtenLastCycle (s.cycle + 1) s.decode2Execute
  executed : writtenLastCycle (s.cycle + 1) s.execute2Memory
  forwarded : oldAndNew s.cycle s.memory2Writeback

/-- Writeback has retired its record: everything is as the next cycle finds it. -/
structure AfterWriteback (s : State) : Prop where
  running : s.runStatus = .running
  control : controlPortsOk (s.nextCycle .fetch)
  data : dataPortsOk (s.nextCycle .fetch)
  balanced : scoreboardBalanced s

/-! ### Sequencing -/

/-- Whatever state the outcome answers has the property, unless a fatal has ended the run. -/
def Reaches (r : Result) (P : State → Prop) : Prop := ∀ t, r = .next t → t.faultedRun ∨ P t

theorem Reaches.next {P : State → Prop} {t : State} (h : P t) : Reaches (.next t) P := by
  intro u hu
  cases hu
  exact .inr h

theorem Reaches.fatal {P : State → Prop} {t : State} (h : t.faultedRun) : Reaches (.next t) P := by
  intro u hu
  cases hu
  exact .inl h

/-- A stage runs on what the stages before it reach, unless a fatal has ended the run (60_exceptions R283). -/
theorem Reaches.andThenStage {P Q : State → Prop} {r : Result} {f : State → Result} (hr : Reaches r P)
    (hrunning : ∀ {u}, P u → u.runStatus = .running) (hf : ∀ {u}, P u → Reaches (f u) Q) :
    Reaches (andThenStage r f) Q := by
  intro t ht
  obtain ⟨u, hu, ⟨hrun, hfu⟩ | ⟨hended, rfl⟩⟩ := andThenStage_next ht
  · rcases hr u hu with ⟨f, hf⟩ | hP
    · cases hrun.symm.trans hf
    · exact hf hP t hfu
  · exact (hr t hu).imp_right fun hP => absurd (hrunning hP) hended

theorem State.faultedRun_raise (s : State) (f : Fatal) : (s.raise f).faultedRun := ⟨f, rfl⟩

/-- A stage whose successor raises no stall operates (43_stages R181). -/
theorem clockStage_noStall {t : Nat} {q : Port Bool} (h : q = []) (shown afterRead : State) (operate : State → Result) :
    clockStage (portRaised t q) shown afterRead operate = operate afterRead := by
  rw [h]; rfl

/-! ### Fetch -/

section Fetch
variable {s : State}

/-- Fetch consumes a flush and its target, which stand together (43_stages R184). -/
theorem redirect_eq (hready : singleReady s.cycle s.memory2FetchFlush) (hvalue : ∀ e ∈ s.memory2FetchFlush, e.value = true)
    (htarget : s.memory2FetchTarget.map Entry.cycleWritten = s.memory2FetchFlush.map Entry.cycleWritten) :
    ∃ pc, s.redirect = { s with memory2FetchFlush := [], memory2FetchTarget := [], pc := pc } := by
  unfold State.redirect
  rcases hready.eq_nil_or_singleton with hflush | ⟨e, hflush, hlt⟩
  · rw [hflush, List.map_nil, List.map_eq_nil_iff] at htarget
    rw [hflush, portRaised_nil, portAfterRead_nil, ← htarget]
    exact ⟨s.pc, rfl⟩
  · rw [hflush] at htarget hvalue
    obtain ⟨a, ha, hcycle⟩ := List.map_eq_singleton_iff.mp htarget
    rw [hflush, portRaised_cons_ready hlt, hvalue e (List.mem_singleton.mpr rfl), portAfterRead_cons_ready hlt, ha,
      portRead_cons_ready (hcycle.trans_lt hlt)]
    exact ⟨a.value, rfl⟩

/-- With its port free, Fetch sends the packet of a word or raises the fatal of a misaligned PC (43_stages R185 to
R188). -/
theorem reaches_fetchWord {P : State → Prop} (hrun : s.runStatus = .running) (hfree : noWriteYet s.cycle s.fetch2Decode)
    (hsent : ∀ p btb pc status,
      P { s with btb := btb, fetch2Decode := written s.cycle p s.fetch2Decode, pc := pc, ifStatus := status }) :
    Reaches (.next s.fetchWord) P := by
  unfold State.fetchWord
  split
  · exact .fatal (State.faultedRun_raise _ _)
  · next raw _ =>
    have hput := putFetch2Decode_of_free (s := { s with btb := lookupBtb s }) (p := fetchPacket raw s) hfree
    rw [State.andThen_eq hput hrun rfl]
    exact .next (hsent _ _ _ _)

/-- A stalled Fetch leaves its flush, which is then the one Decode, Execute and Memory read in this cycle
(40_port_fabric R113). -/
theorem CycleStart.fetchStalled (h : CycleStart s) (hstalled : s.decode2FetchStall ≠ []) (status : Option StageStatus) :
    AfterFetch { s with decode2FetchStall := [], ifStatus := status } :=
  { h with
    flush := ⟨h.flushWritten, h.flushRaised, h.deferred.imp_right fun hwaits => hwaits.resolve_right hstalled,
      h.fetchTarget⟩
    stallRead := rfl
    fetched := h.packet.oldAndNew
    fetchStalled := fun _ => h.packet }

/-- A Fetch that is not stalled has read its flush, and sends a packet to an empty Decode (43_stages R184 to R188). -/
theorem CycleStart.fetchRedirected (h : CycleStart s) (hnoStall : s.decode2FetchStall = []) (btb : Btb) (p : IfIdData)
    (pc : Word) (status : Option StageStatus) :
    AfterFetch { s with
      decode2FetchStall := [], memory2FetchFlush := [], memory2FetchTarget := [], btb := btb
      fetch2Decode := written s.cycle p s.fetch2Decode, pc := pc, ifStatus := status } :=
  { h with
    flush := ⟨h.flushWritten, h.flushRaised, .inl rfl, rfl⟩
    stallRead := rfl
    fetched := h.packet.oldAndNew_written p
    fetchStalled := fun hbusy => absurd (h.stallHeld.mp hnoStall) hbusy }

theorem CycleStart.fetchStage (h : CycleStart s) : Reaches (fetchStage s) AfterFetch := by
  have hstall := h.stall.singleReady
  unfold Machine.fetchStage
  dsimp only
  rw [hstall.portAfterRead_eq]
  split
  · next hstalled => exact .next (h.fetchStalled ((hstall.portRaised_iff h.stallRaised).mp hstalled) _)
  · next hlow =>
    have hnoStall := hstall.eq_nil_of_not_raised h.stallRaised hlow
    obtain ⟨pc, hredirect⟩ :=
      redirect_eq (s := { s with decode2FetchStall := [] }) h.fetchFlush h.fetchFlushRaised h.fetchTarget
    rw [hredirect, State.andThen_running (by exact h.running)]
    exact reaches_fetchWord h.running h.packet.noWriteYet fun p btb pc' status =>
      h.fetchRedirected hnoStall btb p pc' status

end Fetch

/-! ### Decode -/

section Decode
variable {s : State}

/-- With nothing buffered, Decode stalls nobody (43_stages R192, R196). -/
theorem State.frontDone_of_noStall (hfetched : singleReady (s.cycle + 1) s.fetch2Decode) (hstall : s.decode2FetchStall = [])
    (hidle : s.idBuf = none) : s.frontDone :=
  ⟨hfetched, hstall ▸ writtenLastCycle_nil _, iff_of_true hstall hidle, by simp [hstall]⟩

/-- Decode took no packet: nothing is buffered, so nothing stalls Fetch. -/
theorem BeforeIssue.idle (h : BeforeIssue s) (hidle : s.idBuf = none) (status : Option StageStatus) :
    AfterDecode { s with idStatus := status } :=
  { h with
    front := State.frontDone_of_noStall h.fetched h.stallRead hidle
    flushOrStall := .inl h.noFlush
    executeFlush := h.executeFlush.trans h.noFlush.symm
    issued := h.issued.singleReady.oldAndNew }

/-- The record Decode issues joins the records in flight, and balances the bit it clears (42_scoreboard R168). -/
theorem State.recordsOk.issue (h : s.recordsOk) {r : InstrRec} (hcheck : sbCheck s.config s.sb r.body.dst = true) :
    { s.invalidate r.body.dst with decode2Execute := written s.cycle r s.decode2Execute, idBuf := none }.recordsOk := by
  obtain ⟨hwaiting, hpassed, hbalanced⟩ := h
  refine ⟨hwaiting, hpassed, (hbalanced.issue hcheck).perm ?_⟩
  simp only [State.inFlight, map_value_written, ← List.append_assoc]
  exact (List.perm_append_singleton r _).symm

/-- A record Decode may issue has a destination that no record in flight has (43_stages R194). -/
theorem sbCheck_dst_of_hazardFree {c : CoreConfig} {sb : Vector Bool 33} {b : Body} (h : hazardFree c sb b = true) :
    sbCheck c sb b.dst = true := by
  rw [hazardFree, Bool.and_eq_true] at h
  exact h.right

theorem BeforeIssue.issueOp (h : BeforeIssue s) (b : Body) : Reaches (issueOp b s) AfterDecode := by
  unfold Machine.issueOp
  split
  · intro t ht; cases ht
  · next p hp =>
    split
    · next hfree =>
      have hput := putDecode2Execute_of_free (s := { s.invalidate b.dst with idBuf := none }) (r := issuedRecord b p s)
        h.issued.singleReady.noWriteYet
      rw [State.andThen_eq hput h.running rfl]
      exact .next { h with
        records := h.records.issue (r := issuedRecord b p s) (sbCheck_dst_of_hazardFree hfree)
        front := State.frontDone_of_noStall h.fetched h.stallRead rfl
        flushOrStall := .inl h.noFlush
        executeFlush := h.executeFlush.trans h.noFlush.symm
        issued := h.issued.singleReady.oldAndNew_written _ }
    · have hput := putDecode2FetchStall_of_free (s := s) (h.stallRead ▸ (writtenLastCycle_nil _).singleReady.noWriteYet)
      rw [State.andThen_eq hput h.running rfl, h.stallRead]
      exact .next { h with
        front := ⟨h.fetched, writtenLastCycle_written _ _, by simp [written, hp], by simp [written]⟩
        flushOrStall := .inl h.noFlush
        executeFlush := h.executeFlush.trans h.noFlush.symm
        issued := h.issued.singleReady.oldAndNew }

theorem BeforeIssue.rejectOp (h : BeforeIssue s) (code : Poison) (pc : Word) :
    Reaches (rejectOp code pc s) AfterDecode := by
  unfold Machine.rejectOp
  split
  · exact h.issueOp _
  · cases code
    · exact .fatal (State.faultedRun_raise _ _)
    · exact .fatal (State.faultedRun_raise _ _)

/-- Decode's input step leaves one packet at most in P1, the one Fetch has just sent (43_stages R192). -/
theorem AfterFetch.takePacket (h : AfterFetch s) (hnoFlush : s.memory2MemoryFlush = []) :
    BeforeIssue s.takePacket := by
  have hdecodeFlush := h.decodeFlush.trans hnoFlush
  have hexecuteFlush := h.executeFlush.trans hnoFlush
  rcases takePacket_cases s with ⟨hbusy, htake⟩ | ⟨-, hread, htake⟩ | ⟨p, q, -, hread, htake⟩
  · rw [htake]
    exact { h with
      noFlush := hnoFlush, decodeFlush := hdecodeFlush, executeFlush := hexecuteFlush
      fetched := (h.fetchStalled hbusy).succ }
  · rw [htake]
    exact { h with
      noFlush := hnoFlush, decodeFlush := hdecodeFlush, executeFlush := hexecuteFlush
      fetched := (h.fetched.of_portRead_none hread).singleReady }
  · rw [htake]
    exact { h with
      noFlush := hnoFlush, decodeFlush := hdecodeFlush, executeFlush := hexecuteFlush
      fetched := (h.fetched.of_portRead_some hread).singleReady }

/-- Without a flush Decode is idle, issues, stalls Fetch or rejects (43_stages R192 to R196). -/
theorem AfterFetch.decodeWork (h : AfterFetch s) (hacting : s.acting = .decode) (hnoFlush : s.memory2MemoryFlush = []) :
    Reaches (decodeWork s) AfterDecode := by
  have hissue := h.takePacket hnoFlush
  unfold Machine.decodeWork
  split
  · next hidle => exact .next (hissue.idle hidle _)
  · split
    · rw [exec_decode ((State.takePacket_acting s).trans hacting)]
      exact hissue.issueOp _
    · exact hissue.rejectOp _ _
    · exact hissue.rejectOp _ _

theorem AfterFetch.decodeStage (h : AfterFetch s) : Reaches (decodeStage s) AfterDecode := by
  obtain ⟨hstall, hlate⟩ := h.noLateStall
  obtain ⟨hwritten, hvalue, hflushes⟩ := h.flush
  unfold Machine.decodeStage
  dsimp only
  rw [clockStage_noStall hstall, hstall, portAfterRead_nil]
  unfold decodeOperate
  dsimp only
  rw [h.decodeFlush, hwritten.singleReady.portAfterRead_eq]
  split
  · exact .next { h with
      noLateStall := ⟨rfl, hlate⟩
      front := State.frontDone_of_noStall h.fetched.portKept.singleReady h.stallRead rfl
      flushOrStall := .inr h.stallRead
      decodeFlush := rfl
      issued := h.issued.singleReady.oldAndNew }
  · next hflush =>
    have hnoFlush : s.memory2MemoryFlush = [] := hwritten.singleReady.eq_nil_of_not_raised hvalue hflush
    refine AfterFetch.decodeWork ?_ rfl hnoFlush
    exact { h with noLateStall := ⟨rfl, hlate⟩, decodeFlush := hnoFlush.symm }

end Decode

/-! ### Execute -/

section Execute
variable {s : State}

/-- Discarding the older records of P3 releases their destinations (43_stages R198). -/
theorem AfterDecode.executeFlushed (h : AfterDecode s) (status : Option StageStatus) :
    AfterExecute { State.validateAll (portFlushed s.cycle s.decode2Execute)
      { s with memory2ExecuteFlush := [], decode2Execute := portKept s.cycle s.decode2Execute } with exStatus := status } := by
  obtain ⟨hwaiting, hpassed, hbalanced⟩ := h.records
  obtain ⟨sb, hsb, hbalanced⟩ := validateAll_portFlushed
    (s := { s with memory2ExecuteFlush := [], decode2Execute := portKept s.cycle s.decode2Execute }) (younger := [])
    h.issued (by rwa [List.append_nil])
  rw [List.append_nil] at hbalanced
  rw [hsb]
  exact { h with
    records := ⟨hwaiting, hpassed, hbalanced⟩
    executeFlush := rfl
    issued := h.issued.portKept
    executed := h.executed.singleReady.oldAndNew }

/-- Execute forwards the record of P3 with its body as it was, executed or poisoned (43_stages R200). -/
theorem AfterDecode.executeOp (h : AfterDecode s) (hflush : s.memory2ExecuteFlush = []) {r : InstrRec} {q : Port InstrRec}
    (hread : portRead s.cycle s.decode2Execute = some (r, q)) {f : InstrRec → InstrRec} (hbody : (f r).body = r.body)
    (hpast : (f r).pastExecute) : Reaches (executeOp f s) AfterExecute := by
  obtain ⟨hwaiting, hpassed, hbalanced⟩ := h.records
  have hput := putExecute2Memory_of_free (s := { s with decode2Execute := q }) (r := f r) h.executed.singleReady.noWriteYet
  unfold Machine.executeOp
  rw [hread]
  dsimp only
  rw [State.andThen_eq hput h.running rfl]
  exact .next { h with
    records := ⟨forall_mem_written hwaiting hpast, hpassed, hbalanced.of_bodies (by
      simp [State.inFlight, map_value_written, map_value_of_portRead hread, hbody])⟩
    executeFlush := hflush
    issued := h.issued.of_portRead_some hread
    executed := h.executed.singleReady.oldAndNew_written _ }

theorem AfterDecode.executeWork (h : AfterDecode s) (hacting : s.acting = .execute) (hflush : s.memory2ExecuteFlush = []) :
    Reaches (executeWork s) AfterExecute := by
  unfold Machine.executeWork
  split
  · next hread =>
    exact .next { h with
      executeFlush := hflush
      issued := h.issued.of_portRead_none hread
      executed := h.executed.singleReady.oldAndNew }
  · next r q hread =>
    split
    · rw [exec_execute hacting]
      exact h.executeOp hflush hread rfl (.inr (Option.some_ne_none _))
    · next code hbody => exact h.executeOp hflush hread rfl (.inl ⟨code, hbody⟩)

theorem AfterDecode.executeStage (h : AfterDecode s) : Reaches (executeStage s) AfterExecute := by
  obtain ⟨hdstall, hstall, hwstall⟩ := h.noLateStall
  obtain ⟨hwritten, hvalue, hflushes⟩ := h.flush
  have hready := hwritten.singleReady
  unfold Machine.executeStage
  dsimp only
  rw [clockStage_noStall hstall, hstall, portAfterRead_nil]
  unfold executeOperate
  dsimp only
  rw [h.executeFlush, hready.portAfterRead_eq]
  have hstart : AfterDecode { s with acting := .execute, memory2ExecuteStall := [] } :=
    { h with noLateStall := ⟨hdstall, rfl, hwstall⟩ }
  split
  · exact .next (hstart.executeFlushed _)
  · next hflush =>
    have hnoFlush : s.memory2MemoryFlush = [] := hready.eq_nil_of_not_raised hvalue hflush
    refine AfterDecode.executeWork ?_ rfl rfl
    exact { hstart with executeFlush := hnoFlush.symm }

end Execute

/-! ### Memory -/

section Memory
variable {s : State}

/-- Between a flush read by Memory and the next cycle: Fetch's flush waits only if Decode flushed its packet, so no
stall holds Fetch back again (43_stages R190). -/
theorem AfterExecute.control (h : AfterExecute s) : controlPortsOk ({ s with memory2MemoryFlush := [] }.nextCycle .fetch) := by
  obtain ⟨hdstall, hmstall, hwstall⟩ := h.noLateStall
  obtain ⟨hwritten, hvalue, hwaits, htarget⟩ := h.flush
  obtain ⟨-, hstall, hbuffered, hstallValue⟩ := h.front
  have hdecodeFlush := h.decodeFlush
  have hdecodeWritten : writtenLastCycle (s.cycle + 1) s.memory2DecodeFlush := hdecodeFlush ▸ writtenLastCycle_nil _
  have hfetchFlush : singleReady s.cycle s.memory2FetchFlush ∧ (∀ e ∈ s.memory2FetchFlush, e.value = true) ∧
      (s.memory2FetchFlush = [] ∨ s.decode2FetchStall = []) := by
    rcases hwaits with hnone | hsame
    · simp [hnone, singleReady]
    · rw [hsame]
      exact ⟨hwritten.singleReady, hvalue, h.flushOrStall⟩
  obtain ⟨hready, hfetchValue, hdeferred⟩ := hfetchFlush
  exact ⟨hdstall, hmstall, hwstall, hstall, hbuffered, hdecodeWritten,
    h.executeFlush.trans hdecodeFlush.symm, hdecodeFlush.symm, hready.succ, htarget, .inl hdecodeFlush,
    hdeferred.imp_right .inr, List.forall_mem_append.mpr ⟨hstallValue, hfetchValue⟩⟩

theorem AfterExecute.control_noFlush (h : AfterExecute s) (hnoFlush : s.memory2MemoryFlush = []) :
    controlPortsOk (s.nextCycle .fetch) := by
  have hcontrol := h.control
  rwa [← hnoFlush] at hcontrol

/-- Reading a port without a flush changes nothing. -/
theorem AfterExecute.readNoFlush (h : AfterExecute s) (hnoFlush : s.memory2MemoryFlush = []) :
    AfterExecute { s with memory2MemoryFlush := [] } := by
  rwa [← hnoFlush]

/-- When Memory has read no flush, none waits for Fetch either (43_stages R184, R207). -/
theorem AfterExecute.fetchFlush_nil (h : AfterExecute s) (hnoFlush : s.memory2MemoryFlush = []) :
    s.memory2FetchFlush = [] ∧ s.memory2FetchTarget = [] := by
  obtain ⟨-, -, hwaits, htarget⟩ := h.flush
  rw [hnoFlush, or_self] at hwaits
  rw [hwaits] at htarget
  exact ⟨hwaits, List.map_eq_nil_iff.mp htarget⟩

/-- The signals of a misprediction stand together on ports that were empty (43_stages R207). -/
theorem AfterExecute.control_withSignals (h : AfterExecute s) (hnoFlush : s.memory2MemoryFlush = []) (pc target : Word) :
    controlPortsOk ((withSignals true pc target s).nextCycle .fetch) := by
  obtain ⟨hdstall, hmstall, hwstall⟩ := h.noLateStall
  obtain ⟨hfetchFlush, htarget⟩ := h.fetchFlush_nil hnoFlush
  obtain ⟨-, hstall, hbuffered, hstallValue⟩ := h.front
  rw [withSignals, if_pos rfl, hfetchFlush, htarget, h.decodeFlush, h.executeFlush, hnoFlush]
  exact ⟨hdstall, hmstall, hwstall, hstall, hbuffered, writtenLastCycle_written _ _, rfl, rfl,
    (writtenLastCycle_written _ _).singleReady, rfl, .inr rfl, .inr (.inl rfl),
    List.forall_mem_append.mpr ⟨hstallValue, by simp [written]⟩⟩

theorem AfterExecute.memoryPortsFree (h : AfterExecute s) (hnoFlush : s.memory2MemoryFlush = []) : memoryPortsFree s := by
  obtain ⟨hfetchFlush, htarget⟩ := h.fetchFlush_nil hnoFlush
  unfold Machine.memoryPortsFree
  rw [hfetchFlush, htarget, h.decodeFlush, h.executeFlush, hnoFlush]
  have hfree {α : Type} : noWriteYet s.cycle ([] : Port α) := (writtenLastCycle_nil _).singleReady.noWriteYet
  exact ⟨hfree, hfree, hfree, hfree, hfree, h.forwarded.singleReady.noWriteYet⟩

/-- Discarding the older records of P5 releases their destinations (43_stages R202). -/
theorem AfterExecute.memoryFlushed (h : AfterExecute s) (status : Option StageStatus) :
    AfterMemory { State.validateAll (portFlushed s.cycle s.execute2Memory)
      { s with memory2MemoryFlush := [], execute2Memory := portKept s.cycle s.execute2Memory } with memStatus := status } := by
  obtain ⟨hwaiting, hpassed, hbalanced⟩ := h.records
  obtain ⟨hfetched, -⟩ := h.front
  obtain ⟨sb, hsb, hbalanced⟩ := validateAll_portFlushed
    (s := { s with memory2MemoryFlush := [], execute2Memory := portKept s.cycle s.execute2Memory }) h.executed hbalanced
  rw [hsb]
  exact { h with
    control := h.control
    records := ⟨fun e he => hwaiting e (List.mem_of_mem_filter he), hpassed, hbalanced⟩
    fetched := hfetched
    executed := h.executed.portKept
    forwarded := h.forwarded.singleReady.oldAndNew }

/-- Memory has read the live record `r` from P5 and has signalled, and has yet to access memory (43_stages R208). -/
structure BeforeAccess (r : InstrRec) (s : State) : Prop where
  running : s.runStatus = .running
  control : controlPortsOk (s.nextCycle .fetch)
  waiting : ∀ e ∈ s.execute2Memory, e.value.pastExecute
  passed : ∀ e ∈ s.memory2Writeback, e.value.pastMemory
  held : r.pastMemory
  balanced : Balances s.config s.sb (s.memory2Writeback.map Entry.value ++ r :: s.execute2Memory.map Entry.value ++
    s.decode2Execute.map Entry.value)
  fetched : singleReady (s.cycle + 1) s.fetch2Decode
  issued : writtenLastCycle (s.cycle + 1) s.decode2Execute
  executed : writtenLastCycle (s.cycle + 1) s.execute2Memory
  forwarded : writtenLastCycle s.cycle s.memory2Writeback

theorem AfterExecute.signalled (h : AfterExecute s) (hnoFlush : s.memory2MemoryFlush = []) {i : Instr} {r : InstrRec}
    {q : Port InstrRec} (hread : portRead s.cycle s.execute2Memory = some (r, q)) (hbody : r.body = .live i) :
    BeforeAccess r (s.signalled i r q) := by
  obtain ⟨hwaiting, hpassed, hbalanced⟩ := h.records
  obtain ⟨hfetched, -⟩ := h.front
  obtain ⟨⟨e, he, rfl⟩, hrest⟩ := mem_of_portRead hread
  rw [State.inFlight, map_value_of_portRead hread] at hbalanced
  have hresult : e.value.result ≠ none := (hwaiting e he).resolve_left fun ⟨code, hcode⟩ => by
    cases hcode.symm.trans hbody
  have hstart : BeforeAccess e.value { s with memory2MemoryFlush := [], execute2Memory := q } :=
    { h with
      control := h.control
      waiting := fun e' he' => hwaiting e' (hrest e' he')
      passed := hpassed
      held := ⟨⟨i, hbody⟩, hresult⟩
      balanced := hbalanced
      fetched := hfetched
      executed := h.executed.of_portRead_some hread }
  unfold State.signalled
  split
  · exact { hstart with control := h.control_withSignals hnoFlush e.value.pc e.value.out.newPc }
  · exact { hstart with control := h.control_noFlush hnoFlush }

/-- The record an access forwards is the one it was given, but for the value a load puts in (43_stages R208). -/
theorem accessOf_record {i : Instr} {r r' : InstrRec} {s : State} {m : Memory} (h : accessOf i r s = .ok (r', m)) :
    r'.body = r.body ∧ (r.result ≠ none → r'.result ≠ none) := by
  unfold accessOf at h
  split at h
  · rcases loadAccess_cases i.memSize r s with ⟨-, hload⟩ | ⟨-, hload⟩
    · cases hload.symm.trans h
      exact ⟨rfl, fun _ => Option.some_ne_none _⟩
    · cases hload.symm.trans h
  · split at h
    · rcases storeAccess_cases i.memSize r s with ⟨-, hstore⟩ | ⟨-, hstore⟩
      · cases hstore.symm.trans h
        exact ⟨rfl, id⟩
      · cases hstore.symm.trans h
    · cases h
      exact ⟨rfl, id⟩

theorem BeforeAccess.accessAndForward {r : InstrRec} (h : BeforeAccess r s) (i : Instr) (missed : Bool) :
    Reaches (.next (s.accessAndForward (accessOf i) r missed)) AfterMemory := by
  unfold State.accessAndForward
  split
  · exact .fatal (State.faultedRun_raise _ _)
  · next r' m haccess =>
    obtain ⟨hbody, hresult⟩ := accessOf_record haccess
    obtain ⟨hlive, hset⟩ := h.held
    have hput := putMemory2Writeback_of_free (s := { s with mem := m }) (r := r') h.forwarded.singleReady.noWriteYet
    have hforwarded : AfterMemory { s with mem := m, memory2Writeback := written s.cycle r' s.memory2Writeback } :=
      { h with
        records := ⟨h.waiting, forall_mem_written h.passed ⟨hbody.symm ▸ hlive, hresult hset⟩, h.balanced.of_bodies (by
          simp [State.inFlight, map_value_written, hbody])⟩
        forwarded := h.forwarded.singleReady.oldAndNew_written _ }
    rw [hput, State.andThen_running (by exact h.running)]
    cases missed
    · exact .next { hforwarded with }
    · exact .next hforwarded

theorem AfterExecute.memoryWork (h : AfterExecute s) (hacting : s.acting = .memory) (hnoFlush : s.memory2MemoryFlush = []) :
    Reaches (memoryWork s) AfterMemory := by
  obtain ⟨hfetched, -⟩ := h.front
  unfold Machine.memoryWork
  split
  · next hread =>
    exact .next { h with
      control := h.control_noFlush hnoFlush
      fetched := hfetched
      executed := h.executed.of_portRead_none hread
      forwarded := h.forwarded.singleReady.oldAndNew }
  · next r q hread =>
    split
    · next i hbody =>
      rw [exec_memory hacting, memoryOp_of_free h.running hread (h.memoryPortsFree hnoFlush)]
      exact (h.signalled hnoFlush hread hbody).accessAndForward i _
    · exact .fatal (State.faultedRun_raise _ _)
    · exact .fatal (State.faultedRun_raise _ _)

theorem AfterExecute.memoryStage (h : AfterExecute s) : Reaches (memoryStage s) AfterMemory := by
  obtain ⟨hdstall, hmstall, hstall⟩ := h.noLateStall
  obtain ⟨hwritten, hvalue, hwaits⟩ := h.flush
  have hready := hwritten.singleReady
  unfold Machine.memoryStage
  dsimp only
  rw [clockStage_noStall hstall, hstall, portAfterRead_nil]
  unfold memoryOperate
  dsimp only
  rw [hready.portAfterRead_eq]
  have hstart : AfterExecute { s with acting := .memory, writeback2MemoryStall := [] } :=
    { h with noLateStall := ⟨hdstall, hmstall, rfl⟩ }
  split
  · exact .next (hstart.memoryFlushed _)
  · next hflush =>
    have hnoFlush : s.memory2MemoryFlush = [] := hready.eq_nil_of_not_raised hvalue hflush
    exact (hstart.readNoFlush hnoFlush).memoryWork rfl rfl

end Memory

/-! ### Writeback -/

section Writeback
variable {s : State}

/-- The check moves REF at most, or ends the run (43_stages R212). -/
theorem reaches_checkRecord {P : State → Prop} {record : RetireRecord} {f : State → State} (hrun : s.runStatus = .running)
    (hf : ∀ ref', P (f { s with ref := ref' })) : Reaches (.next ((s.checkRecord record).andThen f)) P := by
  rcases checkRecord_cases record s with ⟨-, hcheck⟩ | ⟨ref', -, -, hcheck⟩ | ⟨other, ref', -, hcheck⟩
  · rw [hcheck, State.andThen_running hrun]
    exact .next (hf s.ref)
  · rw [hcheck, State.andThen_running (by exact hrun)]
    exact .next (hf ref')
  · rw [hcheck, State.andThen_ended (by simp)]
    exact .fatal (State.faultedRun_raise _ _)

theorem AfterMemory.retireOp (h : AfterMemory s) {r : InstrRec} {q : Port InstrRec}
    (hread : portRead s.cycle s.memory2Writeback = some (r, q)) : Reaches (retireOp r.body s) AfterWriteback := by
  obtain ⟨hwaiting, hpassed, hbalanced⟩ := h.records
  obtain ⟨-, hrest⟩ := mem_of_portRead hread
  rw [State.inFlight, map_value_of_portRead hread] at hbalanced
  unfold Machine.retireOp
  rw [hread]
  dsimp only
  exact reaches_checkRecord h.running fun ref' => { h with
    data := ⟨h.fetched, h.issued, h.executed, h.forwarded.of_portRead_some hread, hwaiting,
      fun e he => hpassed e (hrest e he)⟩
    balanced := hbalanced.release }

theorem AfterMemory.writebackStage (h : AfterMemory s) : Reaches (writebackStage s) AfterWriteback := by
  obtain ⟨hwaiting, hpassed, hbalanced⟩ := h.records
  have hstart : AfterMemory { s with acting := .writeback } := { h with }
  unfold Machine.writebackStage
  dsimp only
  split
  · next hread =>
    exact .next { h with
      data := ⟨h.fetched, h.issued, h.executed, h.forwarded.of_portRead_none hread, hwaiting, hpassed⟩
      balanced := hbalanced }
  · next r q hread =>
    split
    · next i hbody =>
      rw [exec_writeback rfl, ← hbody]
      exact hstart.retireOp hread
    · next code hbody =>
      rw [← hbody]
      exact hstart.retireOp hread

end Writeback

/-! ### The cycle and the step -/

section Step
variable {s : State}

theorem CycleStart.cycleStep (h : CycleStart s.beginCycle) : Reaches (cycleStep s) AfterWriteback :=
  (((h.fetchStage.andThenStage AfterFetch.running AfterFetch.decodeStage).andThenStage AfterDecode.running
    AfterDecode.executeStage).andThenStage AfterExecute.running AfterExecute.memoryStage).andThenStage AfterMemory.running
    AfterMemory.writebackStage

theorem AfterWriteback.endCycle (h : AfterWriteback s) : PipelineInv s.endCycle := by
  rcases endCycle_cases s with ⟨-, hend⟩ | ⟨-, -, hend⟩ | ⟨-, -, hend⟩
  · rw [hend]; exact .inl (State.faultedRun_raise _ _)
  · rw [hend]; exact .inr ⟨rfl, h.control, h.data, h.balanced⟩
  · rw [hend]; exact .inr ⟨rfl, h.control, h.data, h.balanced⟩

end Step

/-- Settles O55: each stage of a cycle reaches the state the next one needs, or a fatal ends the run. -/
theorem stepKeepsScoreboardBalance : Obligations.StepKeepsScoreboardBalance := by
  intro s t h hnext
  by_cases hrun : s.runStatus = .running
  · have hpipeline := h.resolve_left fun ⟨f, hf⟩ => by cases hrun.symm.trans hf
    rcases step_cases s with ⟨hended, -⟩ | ⟨-, -, hstep⟩ | ⟨-, -, hstep⟩
    · exact absurd hrun hended
    · cases hstep.symm.trans hnext
      exact .inr hpipeline
    · obtain ⟨-, hcontrol, hdata, hbalanced⟩ := hpipeline
      have hcycle := (cycleStart_of_portsOk (s := s.beginCycle) hrun hcontrol hdata hbalanced).cycleStep
      have hreached := hcycle.andThenStage AfterWriteback.running fun hu => .next hu.endCycle
      exact (hreached t (hstep.symm.trans hnext)).elim .inl id
  · cases (step_of_not_running hrun).symm.trans hnext
    exact h

end Sys2Proof.Machine
end

section
/-!
SUPPORT. The clock of a stage by the signals it reads (43_stages R181 to R183): without a stall and a flush it runs
the instruction it holds, rejects it, or is idle.
-/

namespace Sys2Proof.Machine

/-- The fatal of a rejected word at `pc` (43_stages R193, R203). -/
def Poison.fatal (code : Poison) (pc : Word) : Fatal :=
  match code with
  | .invalidInstruction => .invalidInstruction pc
  | .refusedInstruction => .refusedInstruction pc

/-! ### What a stage reads -/

/-- A read finds nothing when the oldest entry is not ready (40_port_fabric R103). -/
theorem portRead_eq_none {α : Type} {t : Nat} {q : Port α} (h : ∀ e ∈ q.head?, t ≤ e.cycleWritten) :
    portRead t q = none := by
  cases q with
  | nil => rfl
  | cons e q => exact portRead_cons_fresh (h e rfl) q

/-- Reading a raised signal removes its entry (40_port_fabric R112). -/
theorem portAfterRead_of_raised {t : Nat} {q : Port Bool} (h : portRaised t q = true) : portAfterRead t q = q.tail := by
  obtain ⟨e, rest, rfl, -, hready⟩ := portRaised_true h
  exact portAfterRead_cons_ready hready rest

section Clock
variable {s : State}

/-! ### Without a stall and a flush -/

theorem State.redirect_of_noFlush (hflush : s.memory2FetchFlush = []) : s.redirect = s := by
  unfold State.redirect
  rw [hflush, portRaised_nil, portAfterRead_nil, ← hflush]
  rfl

theorem fetchStage_of_noStall (hstall : s.decode2FetchStall = []) :
    fetchStage s = .next (s.redirect.andThen State.fetchWord) := by
  unfold fetchStage
  rw [hstall, portRaised_nil, portAfterRead_nil, ← hstall]
  rfl

theorem fetchStage_of_noSignal (hrun : s.runStatus = .running) (hstall : s.decode2FetchStall = [])
    (hflush : s.memory2FetchFlush = []) : fetchStage s = .next s.fetchWord := by
  rw [fetchStage_of_noStall hstall, State.redirect_of_noFlush hflush, State.andThen_running hrun]

theorem decodeStage_of_noStall (hstall : s.execute2DecodeStall = []) :
    decodeStage s = decodeOperate { s with acting := .decode } := by
  unfold decodeStage
  dsimp only
  rw [clockStage_noStall hstall, hstall, portAfterRead_nil, ← hstall]

theorem decodeStage_of_noSignal (hstall : s.execute2DecodeStall = []) (hflush : s.memory2DecodeFlush = []) :
    decodeStage s = decodeWork { s with acting := .decode } := by
  rw [decodeStage_of_noStall hstall]
  unfold decodeOperate
  dsimp only
  rw [hflush, portRaised_nil, portAfterRead_nil, ← hflush]
  rfl

theorem executeStage_of_noStall (hstall : s.memory2ExecuteStall = []) :
    executeStage s = executeOperate { s with acting := .execute } := by
  unfold executeStage
  dsimp only
  rw [clockStage_noStall hstall, hstall, portAfterRead_nil, ← hstall]

theorem executeStage_of_noSignal (hstall : s.memory2ExecuteStall = []) (hflush : s.memory2ExecuteFlush = []) :
    executeStage s = executeWork { s with acting := .execute } := by
  rw [executeStage_of_noStall hstall]
  unfold executeOperate
  dsimp only
  rw [hflush, portRaised_nil, portAfterRead_nil, ← hflush]
  rfl

theorem memoryStage_of_noStall (hstall : s.writeback2MemoryStall = []) :
    memoryStage s = memoryOperate { s with acting := .memory } := by
  unfold memoryStage
  dsimp only
  rw [clockStage_noStall hstall, hstall, portAfterRead_nil, ← hstall]

theorem memoryStage_of_noSignal (hstall : s.writeback2MemoryStall = []) (hflush : s.memory2MemoryFlush = []) :
    memoryStage s = memoryWork { s with acting := .memory } := by
  rw [memoryStage_of_noStall hstall]
  unfold memoryOperate
  dsimp only
  rw [hflush, portRaised_nil, portAfterRead_nil, ← hflush]
  rfl

/-! ### A stage that finds an entry -/

theorem State.takePacket_of_buffered (h : s.idBuf ≠ none) : s.takePacket = s := by
  rcases takePacket_cases s with ⟨-, htake⟩ | ⟨hfree, -⟩ | ⟨p, q, hfree, -⟩
  · exact htake
  · exact absurd hfree h
  · exact absurd hfree h

theorem State.takePacket_of_none_ready (hread : portRead s.cycle s.fetch2Decode = none) : s.takePacket = s := by
  rcases takePacket_cases s with ⟨-, htake⟩ | ⟨-, -, htake⟩ | ⟨p, q, -, hready, -⟩
  · exact htake
  · exact htake
  · cases hread.symm.trans hready

theorem State.takePacket_of_ready {p : IfIdData} {q : Port IfIdData} (hfree : s.idBuf = none)
    (hread : portRead s.cycle s.fetch2Decode = some (p, q)) :
    s.takePacket = { s with fetch2Decode := q, idBuf := some p } := by
  rw [State.takePacket, hfree, hread]

/-- Decode's input step moves P1 and the buffer only (43_stages R192). -/
theorem State.takePacket_frame (s : State) : ∃ q buf, s.takePacket = { s with fetch2Decode := q, idBuf := buf } := by
  rcases takePacket_cases s with ⟨-, htake⟩ | ⟨-, -, htake⟩ | ⟨p, q, -, -, htake⟩
  · exact ⟨_, _, htake⟩
  · exact ⟨_, _, htake⟩
  · exact ⟨_, _, htake⟩

/-- Decode's input step does not look at the marker of the acting stage. -/
theorem State.takePacket_setActing (s : State) (stage : Stage) :
    ({ s with acting := stage } : State).takePacket = { s.takePacket with acting := stage } := by
  unfold State.takePacket
  dsimp only
  split
  · rfl
  · split <;> rfl

/-- Decode runs the instruction its packet decodes to (43_stages R193). -/
theorem decodeStage_of_instr {p : IfIdData} {i : Instr} (hstall : s.execute2DecodeStall = [])
    (hflush : s.memory2DecodeFlush = []) (hp : s.takePacket.idBuf = some p)
    (hi : decodeWord s.config.isa p.raw p.pc = .instr i) :
    decodeStage s = exec i { s.takePacket with acting := .decode } := by
  simp only [decodeStage_of_noSignal hstall hflush, decodeWork, State.takePacket_setActing, hp, hi]

theorem decodeStage_of_invalid {p : IfIdData} (hstall : s.execute2DecodeStall = [])
    (hflush : s.memory2DecodeFlush = []) (hp : s.takePacket.idBuf = some p)
    (hword : decodeWord s.config.isa p.raw p.pc = .invalid) :
    decodeStage s = rejectOp .invalidInstruction p.pc { s.takePacket with acting := .decode } := by
  simp only [decodeStage_of_noSignal hstall hflush, decodeWork, State.takePacket_setActing, hp, hword]

theorem decodeStage_of_refused {p : IfIdData} (hstall : s.execute2DecodeStall = [])
    (hflush : s.memory2DecodeFlush = []) (hp : s.takePacket.idBuf = some p)
    (hword : decodeWord s.config.isa p.raw p.pc = .refused) :
    decodeStage s = rejectOp .refusedInstruction p.pc { s.takePacket with acting := .decode } := by
  simp only [decodeStage_of_noSignal hstall hflush, decodeWork, State.takePacket_setActing, hp, hword]

/-- Execute runs the instruction of the record it reads (43_stages R199). -/
theorem executeStage_of_live {r : InstrRec} {q : Port InstrRec} {i : Instr} (hstall : s.memory2ExecuteStall = [])
    (hflush : s.memory2ExecuteFlush = []) (hread : portRead s.cycle s.decode2Execute = some (r, q))
    (hbody : r.body = .live i) : executeStage s = exec i { s with acting := .execute } := by
  simp only [executeStage_of_noSignal hstall hflush, executeWork, hread, hbody]

/-- A poisoned record passes Execute unexecuted (43_stages R200). -/
theorem executeStage_of_poisoned {r : InstrRec} {q : Port InstrRec} {code : Poison}
    (hstall : s.memory2ExecuteStall = []) (hflush : s.memory2ExecuteFlush = [])
    (hread : portRead s.cycle s.decode2Execute = some (r, q)) (hbody : r.body = .poisoned code) :
    executeStage s = executeOp id { s with acting := .execute } := by
  simp only [executeStage_of_noSignal hstall hflush, executeWork, hread, hbody]

/-- Memory runs the instruction of the record it reads (43_stages R203). -/
theorem memoryStage_of_live {r : InstrRec} {q : Port InstrRec} {i : Instr} (hstall : s.writeback2MemoryStall = [])
    (hflush : s.memory2MemoryFlush = []) (hread : portRead s.cycle s.execute2Memory = some (r, q))
    (hbody : r.body = .live i) : memoryStage s = exec i { s with acting := .memory } := by
  simp only [memoryStage_of_noSignal hstall hflush, memoryWork, hread, hbody]

/-- A poisoned record ends the run at Memory (43_stages R203). -/
theorem memoryStage_of_poisoned {r : InstrRec} {q : Port InstrRec} {code : Poison}
    (hstall : s.writeback2MemoryStall = []) (hflush : s.memory2MemoryFlush = [])
    (hread : portRead s.cycle s.execute2Memory = some (r, q)) (hbody : r.body = .poisoned code) :
    memoryStage s = .next (({ s with acting := .memory, execute2Memory := q }).raise (code.fatal r.pc)) := by
  rw [memoryStage_of_noSignal hstall hflush]
  cases code with
  | invalidInstruction => simp only [memoryWork, hread, hbody, Poison.fatal]
  | refusedInstruction => simp only [memoryWork, hread, hbody, Poison.fatal]

/-- Writeback runs the instruction of the record it reads (43_stages R210). -/
theorem writebackStage_of_live {r : InstrRec} {q : Port InstrRec} {i : Instr}
    (hread : portRead s.cycle s.memory2Writeback = some (r, q)) (hbody : r.body = .live i) :
    writebackStage s = exec i { s with acting := .writeback } := by
  simp only [writebackStage, hread, hbody]

/-! ### A stage that finds nothing -/

theorem decodeStage_of_idle (hstall : s.execute2DecodeStall = []) (hflush : s.memory2DecodeFlush = [])
    (hidle : s.takePacket.idBuf = none) :
    decodeStage s = .next { s.takePacket with acting := .decode, idStatus := some .idle } := by
  simp only [decodeStage_of_noSignal hstall hflush, decodeWork, State.takePacket_setActing, hidle]

theorem executeStage_of_idle (hstall : s.memory2ExecuteStall = []) (hflush : s.memory2ExecuteFlush = [])
    (hread : portRead s.cycle s.decode2Execute = none) :
    executeStage s = .next { s with acting := .execute, exStatus := some .idle } := by
  simp only [executeStage_of_noSignal hstall hflush, executeWork, hread]

theorem memoryStage_of_idle (hstall : s.writeback2MemoryStall = []) (hflush : s.memory2MemoryFlush = [])
    (hread : portRead s.cycle s.execute2Memory = none) :
    memoryStage s = .next { s with acting := .memory, memStatus := some .idle } := by
  simp only [memoryStage_of_noSignal hstall hflush, memoryWork, hread]

theorem writebackStage_of_idle (hread : portRead s.cycle s.memory2Writeback = none) :
    writebackStage s = .next { s with acting := .writeback, wbStatus := some .idle } := by
  simp only [writebackStage, hread]

end Clock

end Sys2Proof.Machine
end

section
/-!
SUPPORT. Fetch (43_stages R184 to R189, 41_branch_predictor R144).
-/

namespace Sys2Proof.Machine

/-! ### The lookups -/

/-- Touching the most recent way again changes nothing (41_branch_predictor R144). -/
theorem BtbSet.touch_touch {b : BtbSet} {w : Nat} (h : b.lru.Nodup) : (b.touch w).touch w = b.touch w := by
  simp only [BtbSet.touch, touchOrder_idem h]

/-- The second tag read of an address changes nothing (41_branch_predictor R144). -/
theorem tagRead_tagRead {c : CoreConfig} {btb : Btb} (hc : c.legal = true) (hbtb : BtbOk c btb) (a : Word) :
    tagRead c (tagRead c btb a) a = tagRead c btb a := by
  cases hhit : tagHit c btb a with
  | none => rw [tagRead_miss hhit, tagRead_miss hhit]
  | some w =>
    have hset := btbSet_tagRead_hit hc hbtb hhit
    have hagain : tagHit c (tagRead c btb a) a = some w := by
      rw [tagHit, hset, BtbSet.touch_tags]
      exact hhit
    conv_lhs => rw [tagRead, hagain]
    dsimp only
    rw [hset, BtbSet.touch_touch (btbSet_setOf_ok hc hbtb).lru_nodup, tagRead, hhit]
    exact List.set_set ..

/-- Fetch's lookups touch the BTB as one tag read does (43_stages R186, 41_branch_predictor R144). -/
theorem lookupBtb_eq_tagRead {s : State} (h : BtbInv s) : lookupBtb s = tagRead s.config s.btb s.pc := by
  obtain ⟨hc, hbtb⟩ := h
  unfold lookupBtb
  dsimp only
  split
  · exact tagRead_tagRead hc hbtb s.pc
  · rfl

section Fetch
variable {s : State}

/-! ### The word -/

theorem fetchWord_of_ok {raw : Word} (hrun : s.runStatus = .running) (hread : memRead s.config s.mem s.pc 4 = .ok raw)
    (hfree : noWriteYet s.cycle s.fetch2Decode) :
    s.fetchWord = { s with
      fetch2Decode := written s.cycle (fetchPacket raw s) s.fetch2Decode
      btb := lookupBtb s
      pc := (fetchPacket raw s).predictedTarget
      ifStatus := some (.fetched s.pc) } := by
  rw [State.fetchWord, hread]
  exact State.andThen_eq (putFetch2Decode_of_free (s := { s with btb := lookupBtb s }) hfree) hrun rfl

theorem fetchWord_of_error {f : Fatal} (hread : memRead s.config s.mem s.pc 4 = .error f) :
    s.fetchWord = s.raise f := by
  rw [State.fetchWord, hread]

/-! ### The redirect -/

theorem State.redirect_of_target {e : Entry Bool} {a : Word} {q : Port Word} (hflush : s.memory2FetchFlush = [e])
    (hvalue : e.value = true) (hready : e.cycleWritten < s.cycle)
    (htarget : portRead s.cycle s.memory2FetchTarget = some (a, q)) :
    s.redirect = { s with memory2FetchFlush := [], memory2FetchTarget := q, pc := a } := by
  simp only [State.redirect, hflush, portRaised_cons_ready hready, hvalue, portAfterRead_cons_ready hready, htarget,
    if_true]

theorem State.redirect_of_noTarget {e : Entry Bool} (hflush : s.memory2FetchFlush = [e])
    (hvalue : e.value = true) (hready : e.cycleWritten < s.cycle)
    (htarget : portRead s.cycle s.memory2FetchTarget = none) :
    s.redirect = ({ s with memory2FetchFlush := [] }).raise (.portProtocol .memory2FetchTarget) := by
  simp only [State.redirect, hflush, portRaised_cons_ready hready, hvalue, portAfterRead_cons_ready hready, htarget,
    if_true]

end Fetch

/-- Settles O20: reading the raised stall removes its entry, and the rest of the clock is skipped. -/
theorem stalledFetchDoesNothing : Obligations.StalledFetchDoesNothing := by
  intro s hraised
  simp only [fetchStage, hraised, portAfterRead_of_raised hraised, if_true]

/-- Settles O21: the second lookup touches what the first has touched, and the fatal of a misaligned PC comes before
both. -/
theorem fetchSendsWordAtPc : Obligations.FetchSendsWordAtPc := by
  intro s hrun hstall hflush
  rw [fetchStage_of_noSignal hrun hstall hflush]
  refine ⟨fun raw hbtb hread hfree => ?_, fun hpolicy hmisaligned => ?_⟩
  · rw [fetchWord_of_ok hrun hread hfree, lookupBtb_eq_tagRead hbtb]
    rfl
  · have hheld := accessAllowed_eq_false_iff.mpr ⟨hpolicy, hmisaligned⟩
    rw [fetchWord_of_error (memRead_misaligned hheld s.mem)]

/-- Settles O22: the redirect consumes the flush; with a target Fetch goes on as from the state at the target. -/
theorem flushRedirectsFetch : Obligations.FlushRedirectsFetch := by
  intro s e hrun hstall hflush hvalue hready
  rw [fetchStage_of_noStall hstall]
  refine ⟨fun a q htarget => ?_, fun htarget => ?_⟩
  · rw [State.redirect_of_target hflush hvalue hready htarget, State.andThen_running (by exact hrun)]
    exact (fetchStage_of_noSignal (by exact hrun) (by exact hstall) rfl).symm
  · rw [State.redirect_of_noTarget hflush hvalue hready htarget, State.andThen_ended (by simp)]

end Sys2Proof.Machine
end

section
/-!
SUPPORT. Decode (43_stages R193 to R197): the record it issues, the stall it raises, and its frame.
-/

namespace Sys2Proof.Machine

/-! ### Operands and the hazard test -/

/-- The value a source reads, spelled out (42_scoreboard R164). -/
theorem readSource_some (x : Vector Word 32) (hilo : DWord) (r : RegIdx) :
    readSource x hilo (some r) = if r = 0 then 0 else if h : r.val < 32 then wideWord x[r.val] else hilo := by
  simp only [readSource, readReg, ← Fin.val_eq_zero_iff]

/-- The hazard test of an instruction checks its three registers (43_stages R194). -/
theorem hazardFree_live_iff {c : CoreConfig} {sb : Vector Bool 33} {i : Instr} :
    hazardFree c sb (.live i) = true ↔
      sbCheck c sb i.src1 = true ∧ sbCheck c sb i.src2 = true ∧ sbCheck c sb i.dst = true := by
  simp only [hazardFree, Body.src1, Body.src2, Body.dst, Bool.and_eq_true, and_assoc]

/-- A rejected word names no register, so nothing holds it back (43_stages R193). -/
theorem hazardFree_poisoned (c : CoreConfig) (sb : Vector Bool 33) (code : Poison) :
    hazardFree c sb (.poisoned code) = true := rfl

section Decode
variable {s : State} {b : Body} {p : IfIdData}

/-! ### Issue and stall -/

theorem issueOp_of_hazardFree (hrun : s.runStatus = .running) (hp : s.idBuf = some p)
    (hready : hazardFree s.config s.sb b = true) (hfree : noWriteYet s.cycle s.decode2Execute) :
    issueOp b s = .next { s with
      sb := sbSet s.config s.sb false b.dst
      idBuf := none
      decode2Execute := written s.cycle (issuedRecord b p s) s.decode2Execute
      idStatus := some (.issued p.pc) } := by
  have hput := putDecode2Execute_of_free (s := { s.invalidate b.dst with idBuf := none }) (r := issuedRecord b p s)
    hfree
  have hissue : issueOp b s = .next ((({ s.invalidate b.dst with idBuf := none }).putDecode2Execute
      (issuedRecord b p s)).andThen fun u => { u with idStatus := some (.issued p.pc) }) := by
    simp only [issueOp, hp, hready, if_true]
  rw [hissue, State.andThen_eq hput hrun rfl]
  rfl

theorem issueOp_of_hazard (hrun : s.runStatus = .running) (hp : s.idBuf = some p)
    (hhazard : hazardFree s.config s.sb b = false) (hfree : noWriteYet s.cycle s.decode2FetchStall) :
    issueOp b s = .next { s with
      decode2FetchStall := written s.cycle true s.decode2FetchStall
      idStatus := some (.hazard p.pc) } := by
  have hissue : issueOp b s = .next (s.putDecode2FetchStall.andThen
      fun u => { u with idStatus := some (.hazard p.pc) }) := by
    simp only [issueOp, hp, hhazard, Bool.false_eq_true, if_false]
  rw [hissue, State.andThen_eq (putDecode2FetchStall_of_free hfree) hrun rfl]

/-- Under fault_at_decode a rejected word ends the run; otherwise it issues as a poisoned record (43_stages R193). -/
theorem rejectOp_of_free {code : Poison} (hrun : s.runStatus = .running) (hp : s.idBuf = some p)
    (hfree : noWriteYet s.cycle s.decode2Execute) (pc : Word) :
    rejectOp code pc s = .next
      (if s.config.invalidPolicy = .faultAtDecode then s.raise (code.fatal pc)
      else { s with
        idBuf := none
        decode2Execute := written s.cycle (issuedRecord (.poisoned code) p s) s.decode2Execute
        idStatus := some (.issued p.pc) }) := by
  cases hpolicy : s.config.invalidPolicy with
  | faultAtDecode => cases code <;> simp only [rejectOp, hpolicy, Poison.fatal, if_true]
  | faultWhenCommitted =>
    simp only [rejectOp, hpolicy, reduceCtorEq, if_false]
    exact issueOp_of_hazardFree hrun hp (hazardFree_poisoned _ _ code) hfree

/-! ### Frame -/

/-- The state `s` with the fields that Decode may change taken from `u`. -/
def State.withDecodeFields (s u : State) : State :=
  { s with
    sb := u.sb
    idBuf := u.idBuf
    decode2Execute := u.decode2Execute
    decode2FetchStall := u.decode2FetchStall
    idStatus := u.idStatus
    runStatus := u.runStatus }

theorem issueOp_frame {t : State} (h : issueOp b s = .next t) : t.withDecodeFields s = s := by
  unfold issueOp at h
  split at h
  · cases h
  · next p _ =>
    split at h
    · cases h
      refine State.andThen_keeps (·.withDecodeFields s) ?_ fun _ => rfl
      rcases putDecode2Execute_cases (issuedRecord b p s) { s.invalidate b.dst with idBuf := none } with ⟨-, h⟩ | h
      · rw [h]; rfl
      · rw [h]; rfl
    · cases h
      refine State.andThen_keeps (·.withDecodeFields s) ?_ fun _ => rfl
      rcases putDecode2FetchStall_cases s with ⟨-, h⟩ | h
      · rw [h]; rfl
      · rw [h]; rfl

/-- Decode clears the bit of the destination of what it issues, and no other bit (42_scoreboard R162). -/
theorem issueOp_sb {t : State} (h : issueOp b s = .next t) : t.sb = s.sb ∨ t.sb = sbSet s.config s.sb false b.dst := by
  unfold issueOp at h
  split at h
  · cases h
  · split at h
    · cases h
      exact .inr (State.andThen_keeps State.sb (State.putDecode2Execute_sb _ _) fun _ => rfl)
    · cases h
      exact .inl (State.andThen_keeps State.sb (State.putDecode2FetchStall_sb _) fun _ => rfl)

end Decode

/-- Settles O23: a decoded word goes to `exec`; a rejected one ends the run or issues without a hazard. -/
theorem decodeRunsOrRejectsWord : Obligations.DecodeRunsOrRejectsWord := by
  intro s p hrun hp hstall hflush hfree taken record rejected
  obtain ⟨q, buf, htake⟩ := s.takePacket_frame
  have hbuf : buf = some p := by rwa [htake] at hp
  have hrejected (code : Poison) : rejectOp code p.pc taken = .next (rejected code (code.fatal p.pc)) := by
    simp only [rejected, taken, htake]
    exact rejectOp_of_free (by exact hrun) (by exact hbuf) (by exact hfree) p.pc
  cases hword : decodeWord s.config.isa p.raw p.pc with
  | instr i => exact decodeStage_of_instr hstall hflush hp hword
  | invalid => exact (decodeStage_of_invalid hstall hflush hp hword).trans (hrejected .invalidInstruction)
  | refused => exact (decodeStage_of_refused hstall hflush hp hword).trans (hrejected .refusedInstruction)

/-- Settles O24: the three checks are the hazard test, and the record carries what `issuedRecord` reads. -/
theorem decodeIssuesWhenReady : Obligations.DecodeIssuesWhenReady := by
  intro i s p hacting hrun hp hsrc1 hsrc2 hdst hfree value
  have hvalue (source : Option RegIdx) : readSource s.x s.hilo source = value source := by
    cases source with
    | none => rfl
    | some r => exact readSource_some s.x s.hilo r
  rw [exec_decode hacting, issueOp_of_hazardFree hrun hp (hazardFree_live_iff.mpr ⟨hsrc1, hsrc2, hdst⟩) hfree,
    issuedRecord, ← hvalue, ← hvalue]
  rfl

/-- Settles O25: one failed check fails the hazard test. -/
theorem decodeHoldsOnHazard : Obligations.DecodeHoldsOnHazard := by
  intro i s p hacting hrun hp hinFlight hfree
  have hhazard : hazardFree s.config s.sb (.live i) = false := by
    rw [← Bool.not_eq_true, hazardFree_live_iff]
    rintro ⟨hsrc1, hsrc2, hdst⟩
    rcases hinFlight with h | h | h
    · cases hsrc1.symm.trans h
    · cases hsrc2.symm.trans h
    · cases hdst.symm.trans h
  rw [exec_decode hacting, issueOp_of_hazard hrun hp hhazard hfree]

/-- Settles O39: Decode issues or stalls, and either changes its own fields only. -/
theorem decodeFrame : Obligations.DecodeFrame := by
  intro i s t hacting h
  rw [exec_decode hacting] at h
  refine ⟨congrArg (·.withDecodeFields t) (issueOp_frame h), fun r hr => ?_, fun a => by rw [issueOp_mem h]⟩
  rcases issueOp_sb h with hsb | hsb
  · rw [hsb]
  · rw [hsb, sbSet_getElem, if_neg fun hdst => hr hdst.1]

end Sys2Proof.Machine
end

section
/-!
SUPPORT. Execute (43_stages R200, 30_encoding R84, 95_test_vectors 1.3): the record it forwards for each row, a poisoned
record, and its frame.
-/

namespace Sys2Proof.Machine

/-! ### Results in the width of their destination (30_encoding R84) -/

theorem gpr_lt (r : BitVec 5) : (gpr r).val < 32 := r.isLt

/-- A result for a general register is its low word; without a destination, or for HI/LO, it is whole. -/
theorem fitDst_eq_ite (dst : Option RegIdx) (v : DWord) :
    fitDst dst v = if dst = none ∨ dst = some 32 then v else wideWord (lowWord v) := by
  cases dst with
  | none => rfl
  | some r =>
    have hhilo : (some r = some 32) ↔ r.val = 32 := by rw [Option.some.injEq, Fin.ext_iff]; rfl
    simp only [fitDst, reduceCtorEq, false_or, hhilo]

/-- A word fits a general register as it is. -/
theorem fitDst_gpr (r : BitVec 5) (v : Word) : fitDst (some (gpr r)) (wideWord v) = wideWord v := by
  have hne : (gpr r).val ≠ 32 := (gpr_lt r).ne
  simp [fitDst, hne]

/-- A result that fits its destination is forwarded as it is. -/
theorem fitResult_eq_self {dst : Option RegIdx} {o : ExecOut} (h : fitDst dst o.vDst = o.vDst) :
    fitResult dst o = o := by
  rw [fitResult, h]

/-! ### Targets (95_test_vectors 1.3) -/

theorem branchTarget_eq (pc : Word) (imm : BitVec 16) : branchTarget pc imm = pc + 4 + imm.signExtend 32 * 4 := by
  rw [branchTarget, sextImm, BitVec.shiftLeft_eq_mul_twoPow]
  rfl

/-- A mask of bits 28 to 31 and a shift by two put region, index and two zero bits side by side. -/
theorem region_or_index {mask : Word} (hmask : ∀ i < 32, mask.getLsbD i = decide (28 ≤ i)) (p : Word)
    (idx : BitVec 26) :
    (p &&& mask) ||| (idx.setWidth 32 <<< 2) = p.extractLsb' 28 4 ++ idx ++ 0#2 := by
  apply BitVec.eq_of_getLsbD_eq
  intro i hi
  rw [BitVec.getLsbD_or, BitVec.getLsbD_and, hmask i hi, BitVec.getLsbD_shiftLeft, BitVec.getLsbD_setWidth,
    BitVec.getLsbD_append, BitVec.getLsbD_append, BitVec.getLsbD_extractLsb']
  by_cases hzero : i < 2
  · simp [hzero, show ¬ 28 ≤ i by omega]
  · by_cases hidx : i < 28
    · simp [hzero, hidx, hi, show i - 2 < 26 by omega, show i - 2 < 32 by omega]
    · simp [hzero, Nat.not_lt.mp hidx, hi, BitVec.getLsbD_of_ge idx (i - 2) (by omega), show ¬ i - 2 < 26 by omega,
        show 28 + (i - 2 - 26) = i by omega, show i - 2 - 26 < 4 by omega]

theorem jumpTarget_eq (pc : Word) (idx : BitVec 26) :
    jumpTarget pc idx = (pc + 4).extractLsb' 28 4 ++ idx ++ 0#2 :=
  region_or_index (by decide) (pc + 4) idx

section Execute
variable {s : State} {r : InstrRec} {q : Port InstrRec}

/-! ### Forwarding -/

theorem executeOp_of_free {f : InstrRec → InstrRec} (hrun : s.runStatus = .running)
    (hread : portRead s.cycle s.decode2Execute = some (r, q)) (hfree : noWriteYet s.cycle s.execute2Memory) :
    executeOp f s = .next { s with
      decode2Execute := q
      execute2Memory := written s.cycle (f r) s.execute2Memory
      exStatus := some (.executed r.pc) } := by
  have hput := putExecute2Memory_of_free (s := { s with decode2Execute := q }) (r := f r) hfree
  simp only [executeOp, hread]
  rw [State.andThen_eq hput hrun rfl]

/-- Every instruction forwards its record with the result of its EXECUTE (43_stages R200). -/
theorem exec_execute_of_free (hacting : s.acting = .execute) (hrun : s.runStatus = .running)
    (hread : portRead s.cycle s.decode2Execute = some (r, q)) (hfree : noWriteYet s.cycle s.execute2Memory) {i : Instr}
    {o : ExecOut} (ho : fitResult i.dst (executeInstr (isaKey s.config.isa) i r.pc r.vSrc1 r.vSrc2) = o) :
    exec i s = .next { s with
      decode2Execute := q
      execute2Memory := written s.cycle { r with result := some o } s.execute2Memory
      exStatus := some (.executed r.pc) } := by
  rw [exec_execute hacting, executeOp_of_free hrun hread hfree, withResult, executeOf, ho]

/-! ### Frame -/

/-- The state `s` with the fields that Execute may change taken from `u`. -/
def State.withExecuteFields (s u : State) : State :=
  { s with
    decode2Execute := u.decode2Execute
    execute2Memory := u.execute2Memory
    exStatus := u.exStatus
    runStatus := u.runStatus }

theorem executeOp_frame {f : InstrRec → InstrRec} {t : State} (h : executeOp f s = .next t) :
    t.withExecuteFields s = s := by
  unfold executeOp at h
  split at h
  · cases h
  · next r q _ =>
    cases h
    refine State.andThen_keeps (·.withExecuteFields s) ?_ fun _ => rfl
    rcases putExecute2Memory_cases (f r) { s with decode2Execute := q } with ⟨-, h⟩ | h
    · rw [h]; rfl
    · rw [h]; rfl

end Execute

/-- Settles O26: each row's EXECUTE gives a word, which fits a general register as it is. -/
theorem executeAluRows : Obligations.ExecuteAluRows := by
  intro s r q hacting hrun hread hfree forwarded
  exact ⟨
    fun rd rs rt => ⟨_, exec_execute_of_free hacting hrun hread hfree (fitResult_eq_self (fitDst_gpr rd _))⟩,
    fun rd rt sa => ⟨_, exec_execute_of_free hacting hrun hread hfree (fitResult_eq_self (fitDst_gpr rd _))⟩,
    fun rt rs imm => ⟨_, exec_execute_of_free hacting hrun hread hfree (fitResult_eq_self (fitDst_gpr rt _))⟩⟩

/-- Settles O27: each row's EXECUTE; shifting the offset by two multiplies it by 4. -/
theorem executeBranchRows : Obligations.ExecuteBranchRows := by
  intro s r q hacting hrun hread hfree forwarded equal
  simp only [← branchTarget_eq]
  refine ⟨fun rs rt imm => ⟨_, _, exec_execute_of_free hacting hrun hread hfree rfl⟩, fun rs rt imm => ?_⟩
  rw [← ite_not]
  exact ⟨_, _, exec_execute_of_free hacting hrun hread hfree rfl⟩

/-- Settles O28: each row's EXECUTE; the mask and the shift leave the region, the index and two zero bits. -/
theorem executeJumpRows : Obligations.ExecuteJumpRows := by
  intro s r q hacting hrun hread hfree forwarded region
  simp only [region, ← jumpTarget_eq]
  exact ⟨fun idx => ⟨_, _, exec_execute_of_free hacting hrun hread hfree rfl⟩,
    fun idx => ⟨_, exec_execute_of_free hacting hrun hread hfree (fitResult_eq_self (fitDst_gpr 31 _))⟩,
    fun rs => ⟨_, _, exec_execute_of_free hacting hrun hread hfree rfl⟩⟩

/-- Settles O29: each row's EXECUTE. -/
theorem executeMemoryRows : Obligations.ExecuteMemoryRows := by
  intro s r q hacting hrun hread hfree forwarded
  exact ⟨fun rt rs imm => ⟨_, exec_execute_of_free hacting hrun hread hfree rfl⟩,
    fun rt rs imm => ⟨_, exec_execute_of_free hacting hrun hread hfree rfl⟩⟩

/-- Settles O30: a class row's EXECUTE is the one of the launch's key, fitted to the destination. -/
theorem executeClassRows : Obligations.ExecuteClassRows := by
  intro s r q key hacting hrun hisa hread hfree forwarded s1 s2 t n op
  have hkey : isaKey s.config.isa = key := by
    rcases hisa with h | h
    · rw [h]; rfl
    · rw [h]; rfl
  have hforwarded {i : Instr} (hopen : executeInstr key i = Config.execute key i) : exec i s = forwarded i i.dst := by
    refine exec_execute_of_free hacting hrun hread hfree ?_
    rw [hkey, hopen, fitResult, fitDst_eq_ite]
  exact ⟨hforwarded rfl, hforwarded rfl, hforwarded rfl, hforwarded rfl⟩

/-- Settles O36: Execute forwards a poisoned record as it is, and Memory raises its fatal before anything else. -/
theorem poisonedRecordFaultsAtMemory : Obligations.PoisonedRecordFaultsAtMemory := by
  intro s r q
  refine ⟨fun code hbody hrun hstall hflush hread hfree => ?_, fun hstall hflush hread => ?_⟩
  · rw [executeStage_of_poisoned hstall hflush hread hbody]
    exact executeOp_of_free (s := { s with acting := .execute }) hrun hread hfree
  · exact ⟨memoryStage_of_poisoned hstall hflush hread, memoryStage_of_poisoned hstall hflush hread⟩

/-- Settles O40: Execute reads P3 and writes P5. -/
theorem executeFrame : Obligations.ExecuteFrame := by
  intro i s t hacting h
  rw [exec_execute hacting] at h
  exact ⟨congrArg (·.withExecuteFields t) (executeOp_frame h), fun a => by rw [executeOp_mem h]⟩

end Sys2Proof.Machine
end

section
/-!
SUPPORT. The frame of Memory (43_stages R203 to R209, 10_state R42).
-/

namespace Sys2Proof.Machine

/-- The state `s` with the fields that Memory may change taken from `u`. -/
def State.withMemoryFields (s u : State) : State :=
  { s with
    execute2Memory := u.execute2Memory
    memory2Writeback := u.memory2Writeback
    memory2FetchFlush := u.memory2FetchFlush
    memory2DecodeFlush := u.memory2DecodeFlush
    memory2ExecuteFlush := u.memory2ExecuteFlush
    memory2MemoryFlush := u.memory2MemoryFlush
    memory2FetchTarget := u.memory2FetchTarget
    btb := u.btb
    mem := u.mem
    memStatus := u.memStatus
    runStatus := u.runStatus }

section Frame
variable (s u : State)

theorem putFetchFlush_withMemoryFields : s.putFetchFlush.withMemoryFields u = s.withMemoryFields u := by
  unfold State.putFetchFlush; split <;> rfl

theorem putDecodeFlush_withMemoryFields : s.putDecodeFlush.withMemoryFields u = s.withMemoryFields u := by
  unfold State.putDecodeFlush; split <;> rfl

theorem putExecuteFlush_withMemoryFields : s.putExecuteFlush.withMemoryFields u = s.withMemoryFields u := by
  unfold State.putExecuteFlush; split <;> rfl

theorem putMemoryFlush_withMemoryFields : s.putMemoryFlush.withMemoryFields u = s.withMemoryFields u := by
  unfold State.putMemoryFlush; split <;> rfl

theorem putFetchTarget_withMemoryFields (a : Word) :
    (s.putFetchTarget a).withMemoryFields u = s.withMemoryFields u := by
  unfold State.putFetchTarget; split <;> rfl

theorem putMemory2Writeback_withMemoryFields (r : InstrRec) :
    (s.putMemory2Writeback r).withMemoryFields u = s.withMemoryFields u := by
  unfold State.putMemory2Writeback; split <;> rfl

theorem broadcastFlush_withMemoryFields (pc target : Word) :
    (s.broadcastFlush pc target).withMemoryFields u = s.withMemoryFields u := by
  unfold State.broadcastFlush
  refine State.andThen_keeps (·.withMemoryFields u) ?_ fun _ => rfl
  refine State.andThen_keeps (·.withMemoryFields u) ?_ fun v => putFetchTarget_withMemoryFields v u target
  refine State.andThen_keeps (·.withMemoryFields u) ?_ fun v => putMemoryFlush_withMemoryFields v u
  refine State.andThen_keeps (·.withMemoryFields u) ?_ fun v => putExecuteFlush_withMemoryFields v u
  exact State.andThen_keeps (·.withMemoryFields u) (putFetchFlush_withMemoryFields s u)
    fun v => putDecodeFlush_withMemoryFields v u

theorem accessAndForward_withMemoryFields (access : Access) (r : InstrRec) (missed : Bool) :
    (s.accessAndForward access r missed).withMemoryFields u = s.withMemoryFields u := by
  unfold State.accessAndForward
  split
  · rfl
  · exact State.andThen_keeps (·.withMemoryFields u) (putMemory2Writeback_withMemoryFields _ u _)
      fun _ => by cases missed <;> rfl

end Frame

section Memory
variable {s t : State} {i : Instr}

theorem memoryOp_frame {access : Access} (h : memoryOp i access s = .next t) : t.withMemoryFields s = s := by
  unfold memoryOp at h
  split at h
  · cases h
  · cases h
    refine State.andThen_keeps (·.withMemoryFields s) ?_
      fun v => accessAndForward_withMemoryFields v s access _ _
    split
    · exact broadcastFlush_withMemoryFields _ s _ _
    · rfl

/-- Memory keeps its bytes, or `i` is a store and its access has written at the record's address (43_stages R208). -/
def State.StoresOnly (i : Instr) (r : InstrRec) (s t : State) : Prop :=
  t.mem = s.mem ∨ (i.isStore = true ∧ t.mem = memStored s.config s.mem r.out.memAddr i.memSize (lowWord r.vSrc2))

theorem accessAndForward_storesOnly (i : Instr) (r : InstrRec) (missed : Bool) (s : State) :
    s.StoresOnly i r (s.accessAndForward (accessOf i) r missed) := by
  unfold State.accessAndForward
  split
  · exact .inl rfl
  · next r' m haccess =>
    have hmem : ((({ s with mem := m }).putMemory2Writeback r').andThen
        fun u => if missed then u else { u with memStatus := some (.memDone r.pc) }).mem = m :=
      State.andThen_keeps State.mem (State.putMemory2Writeback_mem _ _) fun _ => by cases missed <;> rfl
    rcases accessOf_ok haccess with hm | ⟨hstore, -, hm⟩
    · exact .inl (hmem.trans hm)
    · exact .inr ⟨hstore, hmem.trans hm⟩

theorem State.andThen_storesOnly {r : InstrRec} {u : State} {f : State → State} (hconfig : u.config = s.config)
    (hmem : u.mem = s.mem) (hf : u.StoresOnly i r (f u)) : s.StoresOnly i r (u.andThen f) := by
  by_cases hrun : u.runStatus = .running
  · rw [State.andThen_running hrun]
    unfold State.StoresOnly at hf ⊢
    rwa [hconfig, hmem] at hf
  · rw [State.andThen_ended hrun]
    exact .inl hmem

theorem memoryOp_storesOnly (h : memoryOp i (accessOf i) s = .next t) :
    ∃ r q, portRead s.cycle s.execute2Memory = some (r, q) ∧ s.StoresOnly i r t := by
  unfold memoryOp at h
  split at h
  · cases h
  · next r q hread =>
    cases h
    refine ⟨r, q, hread, State.andThen_storesOnly ?_ ?_ (accessAndForward_storesOnly i r _ _)⟩
    · split
      · exact congrArg RetiredPart.config (State.broadcastFlush_retired _ _ _)
      · rfl
    · split
      · exact State.broadcastFlush_mem _ _ _
      · rfl

end Memory

/-- Settles O41: the signals, the predictor and the ports are Memory's own fields, and only a store's access writes
memory, at its record's addresses. -/
theorem memoryFrame : Obligations.MemoryFrame := by
  intro i s t hacting h
  rw [exec_memory hacting] at h
  obtain ⟨r, q, hread, hmem⟩ := memoryOp_storesOnly h
  refine ⟨congrArg (·.withMemoryFields t) (memoryOp_frame h), fun hi a => ?_, fun r' q' hread' a ha => ?_⟩
  · rcases hmem with hkept | ⟨hstore, -⟩
    · rw [hkept]
    · cases hi.symm.trans hstore
  · cases hread.symm.trans hread'
    rcases hmem with hkept | ⟨-, hstored⟩
    · rw [hkept]
    · rw [hstored, readByte_memStored_other]
      rw [mem_accessAddrs]
      rintro ⟨k, hk, rfl⟩
      exact ha k hk rfl

end Sys2Proof.Machine
end

section
/-!
SUPPORT. Writeback (43_stages R211 to R213, 45_driver R268, R269): the check of a record that agrees with REF and of one
that does not, and Writeback's frame.
-/

namespace Sys2Proof.Machine

/-! ### The record (45_driver R268) -/

theorem recordedDst_eq_ite (dst : Option RegIdx) (v : DWord) :
    recordedDst dst v = if dst = none ∨ dst = some 0 then none else some v := by
  cases dst with
  | none => rfl
  | some r =>
    have hzero : (some r = some 0) ↔ r.val = 0 := by rw [Option.some.injEq, Fin.val_eq_zero_iff]
    simp only [recordedDst, reduceCtorEq, false_or, hzero]

/-! ### The check (43_stages R212) -/

section Check
variable {s : State} {record : RetireRecord}

/-- A check that passes moves REF as its step does when attached, and leaves it alone when detached. -/
theorem checkRecord_of_agrees {ref' : RefState}
    (h : (s.config.checker = .detached ∧ ref' = s.ref) ∨
      (s.config.checker = .attached ∧ refStep s.config s.ref = some (record, ref'))) :
    s.checkRecord record = { s with ref := ref' } := by
  rcases h with ⟨hdetached, rfl⟩ | ⟨hattached, hstep⟩
  · rw [State.checkRecord, hdetached]
  · simp only [State.checkRecord, hattached, hstep, if_true]

/-- A check that fails reports both records; REF has moved if it has a record (45_driver R269, log 15). -/
theorem checkRecord_of_mismatch (hattached : s.config.checker = .attached)
    (hne : (refStep s.config s.ref).map Prod.fst ≠ some record) :
    ∃ ref', s.checkRecord record =
      ({ s with ref := ref' }).raise (.checkerMismatch record ((refStep s.config s.ref).map Prod.fst)) := by
  cases hstep : refStep s.config s.ref with
  | none => exact ⟨s.ref, by simp only [State.checkRecord, hattached, hstep, Option.map_none]⟩
  | some moved =>
    obtain ⟨refRecord, ref'⟩ := moved
    have hrecord : record ≠ refRecord := by
      rintro rfl
      exact hne (by rw [hstep]; rfl)
    exact ⟨ref', by simp only [State.checkRecord, hattached, hstep, hrecord, if_false, Option.map_some]⟩

/-- The check moves REF and the run status only (43_stages R212). -/
theorem checkRecord_frame (record : RetireRecord) (s : State) :
    ∃ ref' status, s.checkRecord record = { s with ref := ref', runStatus := status } := by
  rcases checkRecord_cases record s with ⟨-, h⟩ | ⟨ref', -, -, h⟩ | ⟨other, ref', -, h⟩
  · exact ⟨_, _, h⟩
  · exact ⟨_, _, h⟩
  · exact ⟨_, _, h⟩

end Check

section Writeback
variable {s t : State} {b : Body} {r : InstrRec} {q : Port InstrRec}

/-! ### The retirement -/

/-- The state in which Writeback checks its record: the result is written and validated and the record emitted
(43_stages R211, R212). -/
def State.emitted (b : Body) (r : InstrRec) (q : Port InstrRec) (s : State) : State :=
  { s with
    memory2Writeback := q
    x := writeGpr s.x b.dst r.out.vDst
    hilo := writeHilo s.hilo b.dst r.out.vDst
    sb := sbSet s.config s.sb true b.dst
    retireLog := s.retireLog ++ [retireRecord b r.raw r.pc r.vSrc2 r.out] }

/-- Writeback writes and emits, then checks, then counts (43_stages R211 to R213). -/
theorem retireOp_eq (hread : portRead s.cycle s.memory2Writeback = some (r, q)) :
    retireOp b s = .next (((s.emitted b r q).checkRecord (retireRecord b r.raw r.pc r.vSrc2 r.out)).andThen fun u =>
      { u with
        executedInstrs := u.executedInstrs + 1
        lastWritebackCycle := u.cycle
        wbStatus := some (.retired r.pc) }) := by
  rw [retireOp, hread]
  rfl

/-! ### Frame -/

/-- The state `s` with the fields that Writeback may change taken from `u`. -/
def State.withWritebackFields (s u : State) : State :=
  { s with
    memory2Writeback := u.memory2Writeback
    x := u.x
    hilo := u.hilo
    sb := u.sb
    ref := u.ref
    retireLog := u.retireLog
    executedInstrs := u.executedInstrs
    lastWritebackCycle := u.lastWritebackCycle
    wbStatus := u.wbStatus
    runStatus := u.runStatus }

/-- The registers and the scoreboard of a state. -/
def State.registers (s : State) : Vector Word 32 × DWord × Vector Bool 33 := (s.x, s.hilo, s.sb)

theorem retireOp_registers (hread : portRead s.cycle s.memory2Writeback = some (r, q)) (h : retireOp b s = .next t) :
    t.registers = (s.emitted b r q).registers := by
  rw [retireOp_eq hread] at h
  cases h
  refine State.andThen_keeps State.registers ?_ fun _ => rfl
  obtain ⟨ref', status, hcheck⟩ := checkRecord_frame (retireRecord b r.raw r.pc r.vSrc2 r.out) (s.emitted b r q)
  rw [hcheck]
  rfl

theorem retireOp_withWritebackFields (hread : portRead s.cycle s.memory2Writeback = some (r, q))
    (h : retireOp b s = .next t) : t.withWritebackFields s = s := by
  rw [retireOp_eq hread] at h
  cases h
  refine State.andThen_keeps (·.withWritebackFields s) ?_ fun _ => rfl
  obtain ⟨ref', status, hcheck⟩ := checkRecord_frame (retireRecord b r.raw r.pc r.vSrc2 r.out) (s.emitted b r q)
  rw [hcheck]
  rfl

/-- Writeback has read a record when it answers a next state (43_stages R210). -/
theorem retireOp_reads (h : retireOp b s = .next t) : ∃ r q, portRead s.cycle s.memory2Writeback = some (r, q) := by
  unfold retireOp at h
  split at h
  · cases h
  · next r q hread => exact ⟨r, q, hread⟩

end Writeback

/-- Settles O37: the check passes, so the run goes on to the count. -/
theorem writebackRetires : Obligations.WritebackRetires := by
  intro i s r q o ref' hacting hrun hread hresult record hchecked
  obtain rfl := InstrRec.out_of_result hresult
  have hrecord : retireRecord (.live i) r.raw r.pc r.vSrc2 r.out = record := by
    simp only [record, retireRecord, recordedMem, recordedDst_eq_ite, lowBytes_eq_mask, Body.dst]
  have hcheck := checkRecord_of_agrees (s := s.emitted (.live i) r q) hchecked
  rw [exec_writeback hacting, retireOp_eq hread, hrecord, State.andThen_eq hcheck hrun rfl, State.emitted, hrecord]
  rfl

/-- Settles O38: the check raises its fatal in the state that has emitted the record, and the count does not run. -/
theorem checkerMismatchEndsRun : Obligations.CheckerMismatchEndsRun := by
  intro i s r q hacting hrun hread hattached record hne
  obtain ⟨ref', hcheck⟩ := checkRecord_of_mismatch (s := s.emitted (.live i) r q) hattached hne
  rw [exec_writeback hacting, retireOp_eq hread, hcheck, State.andThen_ended (by simp)]
  exact ⟨_, rfl, rfl, rfl, rfl, rfl⟩

/-- Settles O42: Writeback's own fields, of which the register write and the validation reach the destination only. -/
theorem writebackFrame : Obligations.WritebackFrame := by
  intro i s t hacting h
  rw [exec_writeback hacting] at h
  obtain ⟨r, q, hread⟩ := retireOp_reads h
  have hregisters := retireOp_registers hread h
  simp only [State.registers, State.emitted, Prod.mk.injEq] at hregisters
  obtain ⟨hx, hhilo, hsb⟩ := hregisters
  obtain ⟨hmem, -⟩ := retireOp_frame hread h
  refine ⟨congrArg (·.withWritebackFields t) (retireOp_withWritebackFields hread h), fun r' hr' => ⟨?_, ?_⟩,
    fun a => by rw [hmem]⟩
  · rw [hx, hhilo, readReg_write, if_neg fun hdst => hr' hdst.1]
  · rw [hsb, sbSet_getElem, if_neg fun hdst => hr' hdst.1]

end Sys2Proof.Machine
end

section
/-!
SUPPORT. A flush at Decode, Execute and Memory (43_stages R191, R198, R202).
-/

namespace Sys2Proof.Machine

section Port
variable {α : Type} {t : Nat} {q : Port α}

theorem portKept_eq_filter (t : Nat) (q : Port α) : portKept t q = q.filter fun e => decide (t ≤ e.cycleWritten) := by
  simp only [portKept, Nat.not_lt]

/-- A flush discards the values of the older entries (40_port_fabric R105). -/
theorem exists_mem_portFlushed {p : α → Prop} :
    (∃ v ∈ portFlushed t q, p v) ↔ ∃ e ∈ q, e.cycleWritten < t ∧ p e.value := by
  simp [portFlushed, and_assoc]

end Port

section Flush
variable {s : State} {e : Entry Bool}

/-- Setting a bit sets it for the tracked destination and keeps every other bit (42_scoreboard R163). -/
theorem sbSet_true_getElem_iff {c : CoreConfig} {sb : Vector Bool 33} {dst : Option RegIdx} {r : RegIdx} :
    (sbSet c sb true dst)[r.val] = true ↔ sb[r.val] = true ∨ (tracked c r = true ∧ dst = some r) := by
  rw [sbSet_getElem]
  split
  · next h => simp [h]
  · next h => rw [or_iff_left fun ⟨htracked, hdst⟩ => h ⟨hdst, htracked⟩]

/-- Discarded records set the bits of their tracked destinations and no other (43_stages R198, R202). -/
theorem validateAll_getElem_iff (discarded : List InstrRec) (s : State) :
    ∃ sb, State.validateAll discarded s = { s with sb := sb } ∧ ∀ r : RegIdx, sb[r.val] = true ↔
      s.sb[r.val] = true ∨ (tracked s.config r = true ∧ ∃ v ∈ discarded, v.body.dst = some r) := by
  induction discarded generalizing s with
  | nil => exact ⟨s.sb, rfl, by simp⟩
  | cons d rest ih =>
    obtain ⟨sb, hvalidate, hbits⟩ := ih (s.validate d.body.dst)
    refine ⟨sb, hvalidate, fun r => ?_⟩
    rw [hbits, State.validate_sb, State.validate_config, sbSet_true_getElem_iff, or_assoc, ← and_or_left]
    simp only [List.exists_mem_cons_iff]

/-- A flush of the port `q` in cycle `t` sets the bits of the older records' tracked destinations. -/
theorem validateAll_portFlushed_iff (t : Nat) (q : Port InstrRec) (s : State) :
    ∃ sb, State.validateAll (portFlushed t q) s = { s with sb := sb } ∧ ∀ r : RegIdx, sb[r.val] = true ↔
      s.sb[r.val] = true ∨ (tracked s.config r = true ∧ ∃ x ∈ q, x.cycleWritten < t ∧ x.value.body.dst = some r) := by
  obtain ⟨sb, hvalidate, hbits⟩ := validateAll_getElem_iff (portFlushed t q) s
  exact ⟨sb, hvalidate, fun r => (hbits r).trans (by rw [exists_mem_portFlushed])⟩

theorem decodeOperate_of_flush (hvalue : e.value = true) (hready : e.cycleWritten < s.cycle)
    (hflush : s.memory2DecodeFlush = [e]) :
    decodeOperate s = .next { s with
      memory2DecodeFlush := []
      fetch2Decode := portKept s.cycle s.fetch2Decode
      idBuf := none
      idStatus := some .flushed } := by
  simp only [decodeOperate, hflush, portRaised_cons_ready hready, hvalue, portAfterRead_cons_ready hready, if_true]

theorem executeOperate_of_flush (hvalue : e.value = true) (hready : e.cycleWritten < s.cycle)
    (hflush : s.memory2ExecuteFlush = [e]) :
    executeOperate s = .next { State.validateAll (portFlushed s.cycle s.decode2Execute)
      { s with memory2ExecuteFlush := [], decode2Execute := portKept s.cycle s.decode2Execute } with
      exStatus := some .flushed } := by
  simp only [executeOperate, hflush, portRaised_cons_ready hready, hvalue, portAfterRead_cons_ready hready, if_true]

theorem memoryOperate_of_flush (hvalue : e.value = true) (hready : e.cycleWritten < s.cycle)
    (hflush : s.memory2MemoryFlush = [e]) :
    memoryOperate s = .next { State.validateAll (portFlushed s.cycle s.execute2Memory)
      { s with memory2MemoryFlush := [], execute2Memory := portKept s.cycle s.execute2Memory } with
      memStatus := some .flushed } := by
  simp only [memoryOperate, hflush, portRaised_cons_ready hready, hvalue, portAfterRead_cons_ready hready, if_true]

end Flush

/-- Settles O31: a flush parts a port by the cycle of its entries, and Execute and Memory validate what they discard. -/
theorem flushDiscardsYoungerWork : Obligations.FlushDiscardsYoungerWork := by
  intro s e hvalue hready
  refine ⟨fun hstall hflush => ?_, fun hstall hflush => ?_, fun hstall hflush => ?_⟩
  · rw [decodeStage_of_noStall hstall, decodeOperate_of_flush (s := { s with acting := .decode }) hvalue hready hflush,
      portKept_eq_filter]
  · obtain ⟨sb, hvalidate, hbits⟩ := validateAll_portFlushed_iff s.cycle s.decode2Execute
      { s with acting := .execute, memory2ExecuteFlush := [], decode2Execute := portKept s.cycle s.decode2Execute }
    refine ⟨sb, ?_, hbits⟩
    rw [executeStage_of_noStall hstall,
      executeOperate_of_flush (s := { s with acting := .execute }) hvalue hready hflush, hvalidate, portKept_eq_filter]
  · obtain ⟨sb, hvalidate, hbits⟩ := validateAll_portFlushed_iff s.cycle s.execute2Memory
      { s with acting := .memory, memory2MemoryFlush := [], execute2Memory := portKept s.cycle s.execute2Memory }
    refine ⟨sb, ?_, hbits⟩
    rw [memoryStage_of_noStall hstall,
      memoryOperate_of_flush (s := { s with acting := .memory }) hvalue hready hflush, hvalidate, portKept_eq_filter]

end Sys2Proof.Machine
end

section
/-!
SUPPORT. The step as a sequence of meanings (43_stages R180, R192, R217).
-/

namespace Sys2Proof.Machine

section Step
variable {s : State}

/-- A running step with budget left runs the stages behind Fetch on what Fetch leaves (43_stages R180, R217). -/
theorem step_of_fetch {s1 : State} (hrun : s.runStatus = .running) (hbudget : s.executedInstrs < s.config.instrsToRun)
    (hfetch : fetchStage s.beginCycle = .next s1) (hrun1 : s1.runStatus = .running) :
    step s = andThenStage (andThenStage (andThenStage (andThenStage (decodeStage s1) executeStage) memoryStage)
      writebackStage) fun t => .next t.endCycle := by
  rcases step_cases s with ⟨hended, -⟩ | ⟨-, hspent, -⟩ | ⟨-, -, hstep⟩
  · exact absurd hrun hended
  · omega
  · rw [hstep, cycleStep, hfetch, andThenStage_running hrun1]

end Step

/-- Settles O43: the step is the stages in order, and each stage's clock without a stall and a flush is the work on what
it finds. -/
theorem stepRunsDecodedInstruction : Obligations.StepRunsDecodedInstruction := by
  refine ⟨fun s s1 p i hrun hbudget hfetch hrun1 hstall hflush hp hi => ?_, fun s r q i hbody => ⟨?_, ?_, ?_⟩,
    fun s => ⟨State.takePacket_of_buffered, fun e q hfree hport => ?_, fun hport => ?_⟩, fun s => ⟨?_, ?_, ?_, ?_⟩⟩
  · rw [step_of_fetch hrun hbudget hfetch hrun1, decodeStage_of_instr hstall hflush hp hi]
  · exact fun hstall hflush hread => executeStage_of_live hstall hflush hread hbody
  · exact fun hstall hflush hread => memoryStage_of_live hstall hflush hread hbody
  · exact fun hread => writebackStage_of_live hread hbody
  · split
    · next hready => exact State.takePacket_of_ready hfree (hport ▸ portRead_cons_ready hready q)
    · next hfresh => exact State.takePacket_of_none_ready (hport ▸ portRead_cons_fresh (Nat.not_lt.mp hfresh) q)
  · exact State.takePacket_of_none_ready (by rw [hport]; rfl)
  · intro hstall hflush hfree hfresh
    have htake : s.takePacket = s := State.takePacket_of_none_ready (portRead_eq_none hfresh)
    rw [decodeStage_of_idle hstall hflush (htake.symm ▸ hfree), htake]
  · exact fun hstall hflush hfresh => executeStage_of_idle hstall hflush (portRead_eq_none hfresh)
  · exact fun hstall hflush hfresh => memoryStage_of_idle hstall hflush (portRead_eq_none hfresh)
  · exact fun hfresh => writebackStage_of_idle (portRead_eq_none hfresh)

end Sys2Proof.Machine
end

section
/-!
SUPPORT. Memory's work on an instruction whose access takes place (43_stages R203 to R209, 44_instruction_classes R241
to R244): the access of each class, the misprediction test, and the state that Memory leaves.
-/

namespace Sys2Proof.Machine

section Access
variable {i : Instr} {r : InstrRec} {s t : State}

/-! ### The access of each class -/

theorem accessOf_of_neither (hload : i.isLoad = false) (hstore : i.isStore = false) : accessOf i r s = .ok (r, s.mem) := by
  simp [accessOf, hload, hstore, noAccess]

theorem accessOf_of_load {v : Word} (hload : i.isLoad = true)
    (hread : memRead s.config s.mem r.out.memAddr i.memSize = .ok v) :
    accessOf i r s = .ok ({ r with result := some { r.out with vDst := wideWord v } }, s.mem) := by
  rw [accessOf, if_pos hload, loadAccess, hread]; rfl

theorem accessOf_of_store {m : Memory} (hstore : i.isStore = true)
    (hwrite : memWrite s.config s.mem r.out.memAddr i.memSize (lowWord r.vSrc2) = .ok m) :
    accessOf i r s = .ok (r, m) := by
  have hload : i.isLoad = false := by simpa [hstore] using (oneClass i).1
  rw [accessOf, hload, if_neg Bool.false_ne_true, if_pos hstore, storeAccess, hwrite]; rfl

/-- An access depends on the configuration and on memory only (43_stages R208). -/
theorem accessOf_congr (hconfig : t.config = s.config) (hmem : t.mem = s.mem) : accessOf i r t = accessOf i r s := by
  unfold accessOf
  split
  · simp only [loadAccess, hconfig, hmem]
  · split
    · simp only [storeAccess, hconfig, hmem]
    · simp only [noAccess, hmem]

/-! ### The misprediction test -/

theorem missed_eq_decide (i : Instr) (r : InstrRec) :
    missed i r = decide (r.predictedTaken ≠ actuallyTaken i r.out ∨ r.predictedTarget ≠ r.out.newPc) := by
  simp [missed, mispredict, bne, beq_eq_decide]

/-- A load or a store is mispredicted when it was predicted taken or to another address than its next PC. -/
theorem missed_of_access (hi : i.isLoad = true ∨ i.isStore = true) (r : InstrRec) :
    missed i r = decide (r.predictedTaken = true ∨ r.predictedTarget ≠ r.out.newPc) := by
  simp [missed_eq_decide, actuallyTaken_of_access hi]

end Access

/-! ### Access and forward -/

section Forward
variable {i : Instr} {s : State} {r r' : InstrRec} {q : Port InstrRec} {m : Memory}

/-- In the state that Memory has signalled, an access that takes place forwards its record, mispredicted or not
(43_stages R207 to R209). -/
theorem accessAndForward_signalled {access : Access} (hrun : s.runStatus = .running)
    (hfree : noWriteYet s.cycle s.memory2Writeback) (haccess : access r (s.signalled i r q) = .ok (r', m)) :
    (s.signalled i r q).accessAndForward access r (missed i r) =
      withSignals (missed i r) r.pc r.out.newPc { s.predictorUpdated i r q with
        mem := m
        memory2Writeback := written s.cycle r' s.memory2Writeback } := by
  rw [State.accessAndForward, haccess]
  unfold State.signalled
  cases missed i r
  · exact State.andThen_eq (putMemory2Writeback_of_free hfree) hrun rfl
  · exact State.andThen_eq (putMemory2Writeback_of_free hfree) hrun rfl

/-- What an instruction of any class does at Memory when its access takes place: it trains the predictor, signals a
misprediction, and forwards the record its access gives (43_stages R205 to R209). -/
theorem exec_memory_of_free (hacting : s.acting = .memory) (hrun : s.runStatus = .running)
    (hread : portRead s.cycle s.execute2Memory = some (r, q)) (hfree : memoryPortsFree s)
    (haccess : accessOf i r s = .ok (r', m)) :
    exec i s = .next (withSignals (missed i r) r.pc r.out.newPc { s.predictorUpdated i r q with
      mem := m
      memory2Writeback := written s.cycle r' s.memory2Writeback }) := by
  have ⟨_, _, _, _, _, hforward⟩ := hfree
  have hsignalled : accessOf i r (s.signalled i r q) = .ok (r', m) := by
    rw [accessOf_congr (State.signalled_config i r q s) (State.signalled_mem i r q s), haccess]
  rw [exec_memory hacting, memoryOp_of_free hrun hread hfree, accessAndForward_signalled hrun hforward hsignalled]

end Forward

/-! ### The classes -/

/-- Settles O32: the access of an instruction that neither loads nor stores leaves memory and record alone. -/
theorem memoryPassesOtherAndJump : Obligations.MemoryPassesOtherAndJump := by
  intro i s r q o hacting hrun hload hstore hread hresult hfree
  obtain rfl := InstrRec.out_of_result hresult
  rw [exec_memory_of_free hacting hrun hread hfree (accessOf_of_neither hload hstore), missed_eq_decide,
    State.predictorUpdated, actuallyTaken]

/-- Settles O33: the access of a load is its MemRead, whose value the record takes. -/
theorem memoryPerformsLoad : Obligations.MemoryPerformsLoad := by
  intro i s r q o v hacting hrun hload hread hresult hfree hvalue
  obtain rfl := InstrRec.out_of_result hresult
  rw [exec_memory_of_free hacting hrun hread hfree (accessOf_of_load hload hvalue), missed_of_access (.inl hload),
    State.predictorUpdated, actuallyTaken_of_access (.inl hload)]

/-- Settles O34: the access of a store is its MemWrite of `v_src2`, which leaves the record alone. -/
theorem memoryPerformsStore : Obligations.MemoryPerformsStore := by
  intro i s r q o m' hacting hrun hstore hread hresult hfree hwrite
  obtain rfl := InstrRec.out_of_result hresult
  rw [exec_memory_of_free hacting hrun hread hfree (accessOf_of_store hstore hwrite), missed_of_access (.inr hstore),
    State.predictorUpdated, actuallyTaken_of_access (.inr hstore)]

end Sys2Proof.Machine
end

section
/-!
SUPPORT. The driver (45_driver R261 to R263). A cycle of a run that is not done answers a next state that is not done
either, so a step either completes its cycle or ends in a fatal; and a completed cycle retires at most one instruction.
-/

namespace Sys2Proof.Machine

/-! ### Only the driver ends a run as done -/

/-- The run is not done: it goes on, or a fatal has ended it. -/
def State.notDone (s : State) : Prop := s.runStatus ≠ .done

/-- The outcome is a next state that is not done. -/
def Proceeds (r : Result) : Prop := ∃ t, r = .next t ∧ t.notDone

theorem State.notDone_of_running {s : State} (h : s.runStatus = .running) : s.notDone := by
  simp [State.notDone, h]

theorem State.raise_notDone (s : State) (f : Fatal) : (s.raise f).notDone := nofun

/-- A statement that sets no `done` sets none after any other (60_exceptions R283). -/
theorem State.notDone.andThen {s : State} {f : State → State} (hs : s.notDone)
    (hf : ∀ {u : State}, u.notDone → (f u).notDone) : (s.andThen f).notDone := by
  by_cases hrun : s.runStatus = .running
  · rw [State.andThen_running hrun]
    exact hf hs
  · rw [State.andThen_ended hrun]
    exact hs

theorem Proceeds.andThenStage {r : Result} {f : State → Result} (hr : Proceeds r)
    (hf : ∀ {u : State}, u.notDone → Proceeds (f u)) : Proceeds (andThenStage r f) := by
  obtain ⟨u, rfl, hu⟩ := hr
  by_cases hrun : u.runStatus = .running
  · rw [andThenStage_running hrun]
    exact hf hu
  · rw [andThenStage_ended hrun]
    exact ⟨u, rfl, hu⟩

namespace State.notDone
variable {s : State}

theorem putFetch2Decode (h : s.notDone) (p : IfIdData) : (s.putFetch2Decode p).notDone := by
  unfold State.putFetch2Decode; split; exacts [h, s.raise_notDone _]

theorem putDecode2FetchStall (h : s.notDone) : s.putDecode2FetchStall.notDone := by
  unfold State.putDecode2FetchStall; split; exacts [h, s.raise_notDone _]

theorem putDecode2Execute (h : s.notDone) (r : InstrRec) : (s.putDecode2Execute r).notDone := by
  unfold State.putDecode2Execute; split; exacts [h, s.raise_notDone _]

theorem putExecute2Memory (h : s.notDone) (r : InstrRec) : (s.putExecute2Memory r).notDone := by
  unfold State.putExecute2Memory; split; exacts [h, s.raise_notDone _]

theorem putMemory2Writeback (h : s.notDone) (r : InstrRec) : (s.putMemory2Writeback r).notDone := by
  unfold State.putMemory2Writeback; split; exacts [h, s.raise_notDone _]

theorem putFetchFlush (h : s.notDone) : s.putFetchFlush.notDone := by
  unfold State.putFetchFlush; split; exacts [h, s.raise_notDone _]

theorem putDecodeFlush (h : s.notDone) : s.putDecodeFlush.notDone := by
  unfold State.putDecodeFlush; split; exacts [h, s.raise_notDone _]

theorem putExecuteFlush (h : s.notDone) : s.putExecuteFlush.notDone := by
  unfold State.putExecuteFlush; split; exacts [h, s.raise_notDone _]

theorem putMemoryFlush (h : s.notDone) : s.putMemoryFlush.notDone := by
  unfold State.putMemoryFlush; split; exacts [h, s.raise_notDone _]

theorem putFetchTarget (h : s.notDone) (a : Word) : (s.putFetchTarget a).notDone := by
  unfold State.putFetchTarget; split; exacts [h, s.raise_notDone _]

theorem takePacket (h : s.notDone) : s.takePacket.notDone := by
  obtain ⟨q, buf, htake⟩ := s.takePacket_frame
  rw [htake]
  exact h

theorem validateAll (h : s.notDone) (rs : List InstrRec) : (State.validateAll rs s).notDone := by
  obtain ⟨sb, hvalidate, -⟩ := validateAll_getElem_iff rs s
  rw [hvalidate]
  exact h

theorem redirect (h : s.notDone) : s.redirect.notDone := by
  unfold State.redirect
  dsimp only
  split
  · split
    · exact State.raise_notDone _ _
    · exact h
  · exact h

theorem fetchWord (h : s.notDone) : s.fetchWord.notDone := by
  unfold State.fetchWord
  split
  · exact s.raise_notDone _
  · exact (putFetch2Decode (by exact h) _).andThen fun hu => hu

theorem broadcastFlush (h : s.notDone) (pc target : Word) : (s.broadcastFlush pc target).notDone :=
  ((((h.putFetchFlush.andThen putDecodeFlush).andThen putExecuteFlush).andThen putMemoryFlush).andThen
    fun hu => hu.putFetchTarget target).andThen fun hu => hu

theorem accessAndForward (h : s.notDone) (access : Access) (r : InstrRec) (missed : Bool) :
    (s.accessAndForward access r missed).notDone := by
  unfold State.accessAndForward
  split
  · exact s.raise_notDone _
  · exact (putMemory2Writeback (by exact h) _).andThen fun hu => by cases missed <;> exact hu

theorem checkRecord (h : s.notDone) (record : RetireRecord) : (s.checkRecord record).notDone := by
  rcases checkRecord_cases record s with ⟨-, hcheck⟩ | ⟨ref', -, -, hcheck⟩ | ⟨other, ref', -, hcheck⟩
  · rw [hcheck]; exact h
  · rw [hcheck]; exact h
  · rw [hcheck]; exact State.raise_notDone _ _

end State.notDone

/-! ### Every stage proceeds -/

section Stages
variable {s : State}

theorem fetchStage_proceeds (h : s.notDone) : Proceeds (fetchStage s) := by
  unfold fetchStage
  dsimp only
  split
  · exact ⟨_, rfl, h⟩
  · exact ⟨_, rfl, (State.notDone.redirect (by exact h)).andThen State.notDone.fetchWord⟩

/-- A clock proceeds when its operation does: a stall only shows (43_stages R181). -/
theorem clockStage_proceeds {shown afterRead : State} {operate : State → Result} (hshown : shown.notDone)
    (hoperate : Proceeds (operate afterRead)) (stalled : Bool) :
    Proceeds (clockStage stalled shown afterRead operate) := by
  cases stalled
  · exact hoperate
  · exact ⟨shown, rfl, hshown⟩

theorem issueOp_proceeds (h : s.notDone) {p : IfIdData} (hp : s.idBuf = some p) (b : Body) :
    Proceeds (issueOp b s) := by
  unfold issueOp
  rw [hp]
  dsimp only
  split
  · exact ⟨_, rfl, (State.notDone.putDecode2Execute (by exact h) _).andThen fun hu => hu⟩
  · exact ⟨_, rfl, h.putDecode2FetchStall.andThen fun hu => hu⟩

theorem rejectOp_proceeds (h : s.notDone) {p : IfIdData} (hp : s.idBuf = some p) (code : Poison) (pc : Word) :
    Proceeds (rejectOp code pc s) := by
  unfold rejectOp
  split
  · exact issueOp_proceeds h hp _
  · split
    · exact ⟨_, rfl, s.raise_notDone _⟩
    · exact ⟨_, rfl, s.raise_notDone _⟩

theorem decodeWork_proceeds (h : s.notDone) (hacting : s.acting = .decode) : Proceeds (decodeWork s) := by
  unfold decodeWork
  split
  · exact ⟨_, rfl, h.takePacket⟩
  · next p hp =>
    split
    · rw [exec_decode (by rw [State.takePacket_acting, hacting])]
      exact issueOp_proceeds h.takePacket hp _
    · exact rejectOp_proceeds h.takePacket hp _ _
    · exact rejectOp_proceeds h.takePacket hp _ _

theorem decodeStage_proceeds (h : s.notDone) : Proceeds (decodeStage s) := by
  refine clockStage_proceeds (by exact h) ?_ _
  unfold decodeOperate
  dsimp only
  split
  · exact ⟨_, rfl, h⟩
  · exact decodeWork_proceeds (by exact h) rfl

theorem executeOp_proceeds (h : s.notDone) {r : InstrRec} {q : Port InstrRec}
    (hread : portRead s.cycle s.decode2Execute = some (r, q)) (f : InstrRec → InstrRec) : Proceeds (executeOp f s) := by
  unfold executeOp
  rw [hread]
  exact ⟨_, rfl, (State.notDone.putExecute2Memory (by exact h) _).andThen fun hu => hu⟩

theorem executeWork_proceeds (h : s.notDone) (hacting : s.acting = .execute) : Proceeds (executeWork s) := by
  unfold executeWork
  split
  · exact ⟨_, rfl, h⟩
  · next r q hread =>
    split
    · rw [exec_execute hacting]
      exact executeOp_proceeds h hread _
    · exact executeOp_proceeds h hread _

theorem executeStage_proceeds (h : s.notDone) : Proceeds (executeStage s) := by
  refine clockStage_proceeds (by exact h) ?_ _
  unfold executeOperate
  dsimp only
  split
  · exact ⟨_, rfl, State.notDone.validateAll (by exact h) _⟩
  · exact executeWork_proceeds (by exact h) rfl

theorem memoryOp_proceeds (h : s.notDone) {r : InstrRec} {q : Port InstrRec}
    (hread : portRead s.cycle s.execute2Memory = some (r, q)) (i : Instr) (access : Access) :
    Proceeds (memoryOp i access s) := by
  unfold memoryOp
  rw [hread]
  refine ⟨_, rfl, State.notDone.andThen ?_ fun hu => hu.accessAndForward access r _⟩
  split
  · exact State.notDone.broadcastFlush (by exact h) _ _
  · exact h

theorem memoryWork_proceeds (h : s.notDone) (hacting : s.acting = .memory) : Proceeds (memoryWork s) := by
  unfold memoryWork
  split
  · exact ⟨_, rfl, h⟩
  · next r q hread =>
    split
    · rw [exec_memory hacting]
      exact memoryOp_proceeds h hread _ _
    · exact ⟨_, rfl, State.raise_notDone _ _⟩
    · exact ⟨_, rfl, State.raise_notDone _ _⟩

theorem memoryStage_proceeds (h : s.notDone) : Proceeds (memoryStage s) := by
  refine clockStage_proceeds (by exact h) ?_ _
  unfold memoryOperate
  dsimp only
  split
  · exact ⟨_, rfl, State.notDone.validateAll (by exact h) _⟩
  · exact memoryWork_proceeds (by exact h) rfl

theorem retireOp_proceeds (h : s.notDone) {r : InstrRec} {q : Port InstrRec}
    (hread : portRead s.cycle s.memory2Writeback = some (r, q)) (b : Body) : Proceeds (retireOp b s) := by
  rw [retireOp_eq hread]
  exact ⟨_, rfl, (State.notDone.checkRecord (by exact h) _).andThen fun hu => hu⟩

theorem writebackStage_proceeds (h : s.notDone) : Proceeds (writebackStage s) := by
  unfold writebackStage
  dsimp only
  split
  · exact ⟨_, rfl, h⟩
  · next r q hread =>
    split
    · rw [exec_writeback rfl]
      exact retireOp_proceeds (s := { s with acting := .writeback }) h hread _
    · exact retireOp_proceeds (s := { s with acting := .writeback }) h hread _

theorem cycleStep_proceeds (h : s.notDone) : Proceeds (cycleStep s) :=
  ((((fetchStage_proceeds (by exact h)).andThenStage decodeStage_proceeds).andThenStage
    executeStage_proceeds).andThenStage memoryStage_proceeds).andThenStage writebackStage_proceeds

end Stages

/-! ### A step of a run with budget left -/

section Step
variable {s t : State}

/-- A state that is not done and not running has faulted. -/
theorem State.faultedRun_of_ended (hdone : s.notDone) (hrun : s.runStatus ≠ .running) : s.faultedRun := by
  cases h : s.runStatus with
  | running => exact absurd h hrun
  | done => exact absurd h hdone
  | faulted f => exact ⟨f, h⟩

/-- With budget left a step completes a cycle and counts it, or stops in the cycle at a fatal (45_driver R261,
60_exceptions R283). -/
theorem step_of_budgetLeft (hrun : s.runStatus = .running) (hbudget : s.executedInstrs < s.config.instrsToRun) :
    ∃ u, cycleStep s = .next u ∧ ((u.runStatus = .running ∧ step s = .next u.endCycle) ∨
      (u.faultedRun ∧ step s = .next u)) := by
  obtain ⟨u, hu, hdone⟩ := cycleStep_proceeds (State.notDone_of_running hrun)
  refine ⟨u, hu, ?_⟩
  rcases step_cases s with ⟨hended, -⟩ | ⟨-, hspent, -⟩ | ⟨-, -, hstep⟩
  · exact absurd hrun hended
  · omega
  · rw [hstep, hu]
    by_cases hu' : u.runStatus = .running
    · exact .inl ⟨hu', andThenStage_running hu' _⟩
    · exact .inr ⟨State.faultedRun_of_ended hdone hu', andThenStage_ended hu' _⟩

/-- With its budget met a run ends (45_driver R265). -/
theorem step_of_budgetMet (hrun : s.runStatus = .running) (hbudget : s.config.instrsToRun ≤ s.executedInstrs) :
    step s = .next { s with runStatus := .done } := by
  rcases step_cases s with ⟨hended, -⟩ | ⟨-, -, hstep⟩ | ⟨-, hleft, -⟩
  · exact absurd hrun hended
  · exact hstep
  · omega

/-- Every step answers a next state (60_exceptions R283). -/
theorem exists_step_eq_next (s : State) : ∃ t, step s = .next t := by
  by_cases hrun : s.runStatus = .running
  · rcases Nat.lt_or_ge s.executedInstrs s.config.instrsToRun with hbudget | hbudget
    · obtain ⟨u, -, ⟨-, hstep⟩ | ⟨-, hstep⟩⟩ := step_of_budgetLeft hrun hbudget
      · exact ⟨_, hstep⟩
      · exact ⟨_, hstep⟩
    · exact ⟨_, step_of_budgetMet hrun hbudget⟩
  · exact ⟨s, step_of_not_running hrun⟩

/-- A cycle without a fatal retires nothing, or one record, which it counts (43_stages R210 to R213). -/
theorem cycleStep_retires (h : cycleStep s = .next t) (hrun : t.runStatus = .running) :
    t.retired = s.retired ∨ ∃ b r ref', t.retired = ({ s.retired.write b r with ref := ref' } : RetiredPart).count := by
  rcases cycleStep_cases h with hkept | ⟨w, hwrun, hkept, hwb⟩
  · exact .inl hkept
  · rw [← hkept]
    rcases writebackStage_cases hwb with rfl | ⟨r, -, -, hretire⟩
    · exact .inl rfl
    · obtain ⟨r', -, ref', -, ⟨-, hcounted⟩ | ⟨other, hfault, -⟩⟩ := retireOp_cases hretire hwrun
      · exact .inr ⟨r.body, r', ref', hcounted⟩
      · cases hrun.symm.trans hfault

/-- From `p` to `q` nothing has retired, or one instruction has, in the cycle of `p` (45_driver R262, R268). -/
def RetiredPart.CountsAtMostOne (p q : RetiredPart) : Prop :=
  (q.executedInstrs = p.executedInstrs ∧ q.lastWritebackCycle = p.lastWritebackCycle ∧ q.retireLog = p.retireLog) ∨
    (q.executedInstrs = p.executedInstrs + 1 ∧ q.lastWritebackCycle = p.cycle ∧
      ∃ record, q.retireLog = p.retireLog ++ [record])

theorem cycleStep_countsAtMostOne (h : cycleStep s = .next t) (hrun : t.runStatus = .running) :
    t.cycle = s.cycle ∧ s.retired.CountsAtMostOne t.retired := by
  rcases cycleStep_retires h hrun with hkept | ⟨b, r, ref', hcounted⟩
  · exact ⟨congrArg RetiredPart.cycle hkept, hkept ▸ .inl ⟨rfl, rfl, rfl⟩⟩
  · exact ⟨congrArg RetiredPart.cycle hcounted, hcounted ▸ .inr ⟨rfl, rfl, _, rfl⟩⟩

end Step

/-- Settles O46: the driver counts what the cycle has retired, and tests watchdog and budget on it. -/
theorem cycleCountsAndEndsOnBudget : Obligations.CycleCountsAndEndsOnBudget := by
  intro s t hrun hbudget hstep hfault
  obtain ⟨u, hcycle, ⟨hu, hnext⟩ | ⟨hu, hnext⟩⟩ := step_of_budgetLeft hrun hbudget
  · cases hstep.symm.trans hnext
    obtain ⟨hcount, hretires⟩ := cycleStep_countsAtMostOne hcycle hu
    rcases endCycle_cases u with ⟨-, hend⟩ | ⟨hwatchdog, hmet, hend⟩ | ⟨hwatchdog, hleft, hend⟩
    · exact absurd (hend ▸ State.faultedRun_raise _ _) hfault
    · rw [hend]
      exact ⟨congrArg (· + 1) hcount, hretires, iff_of_true rfl hmet, hwatchdog⟩
    · rw [hend]
      refine ⟨congrArg (· + 1) hcount, hretires, iff_of_false ?_ (Nat.not_le.mpr hleft), hwatchdog⟩
      exact State.notDone_of_running hu
  · cases hstep.symm.trans hnext
    exact absurd hu hfault

end Sys2Proof.Machine
end

section
/-!
SUPPORT. The counters over steps and whole runs (45_driver R262 to R266, R268), and the launch state of an external REF
(R269).
-/

namespace Sys2Proof.Machine

/-! ### An external REF over a step (45_driver R269) -/

/-- From `r` to `r'` REF stays, or, with the checker attached, takes one step. -/
def RefMoves (c : CoreConfig) (r r' : RefState) : Prop :=
  r' = r ∨ (c.checker = .attached ∧ ∃ record, refStep c r = some (record, r'))

section Ref
variable {s t : State}

theorem checkRecord_refMoves (record : RetireRecord) (s : State) :
    RefMoves s.config s.ref (s.checkRecord record).ref := by
  unfold State.checkRecord
  split
  · exact .inl rfl
  · next hattached =>
    split
    · exact .inl rfl
    · next refRecord ref' hstep =>
      split
      · exact .inr ⟨hattached, refRecord, hstep⟩
      · exact .inr ⟨hattached, refRecord, hstep⟩

theorem retireOp_refMoves {b : Body} (h : retireOp b s = .next t) : RefMoves s.config s.ref t.ref := by
  obtain ⟨r, q, hread⟩ := retireOp_reads h
  have hcheck := checkRecord_refMoves (retireRecord b r.raw r.pc r.vSrc2 r.out) (s.emitted b r q)
  have hcounted : t.ref = ((s.emitted b r q).checkRecord (retireRecord b r.raw r.pc r.vSrc2 r.out)).ref := by
    rw [retireOp_eq hread] at h
    cases h
    exact State.andThen_keeps State.ref rfl fun _ => rfl
  rw [hcounted]
  exact hcheck

/-- REF moves in Writeback's check only (43_stages R212). -/
theorem cycleStep_refMoves (h : cycleStep s = .next t) : RefMoves s.config s.ref t.ref := by
  rcases cycleStep_cases h with hkept | ⟨w, -, hkept, hwb⟩
  · exact .inl (congrArg RetiredPart.ref hkept)
  · have hconfig : w.config = s.config := congrArg RetiredPart.config hkept
    have href : w.ref = s.ref := congrArg RetiredPart.ref hkept
    rw [← hconfig, ← href]
    rcases writebackStage_cases hwb with rfl | ⟨r, -, -, hretire⟩
    · exact .inl rfl
    · exact retireOp_refMoves (s := { w with acting := .writeback }) hretire

theorem step_refMoves (h : step s = .next t) : RefMoves s.config s.ref t.ref := by
  rcases step_cases s with ⟨-, hstep⟩ | ⟨-, -, hstep⟩ | ⟨-, -, hstep⟩
  · cases hstep.symm.trans h
    exact .inl rfl
  · cases hstep.symm.trans h
    exact .inl rfl
  · obtain ⟨u, hu, ⟨-, hend⟩ | ⟨-, rfl⟩⟩ := andThenStage_next (hstep.symm.trans h)
    · cases hend
      have href : u.endCycle.ref = u.ref := congrArg RetiredPart.ref (endCycle_retired u)
      rw [href]
      exact cycleStep_refMoves hu
    · exact cycleStep_refMoves hu

end Ref

/-! ### Counters over a step -/

theorem step_config {s t : State} (h : step s = .next t) : t.config = s.config :=
  (step_movesRegisters h).config_eq

theorem CounterInv.step {s t : State} (h : CounterInv s) (hstep : step s = .next t) : CounterInv t := by
  by_cases hrun : s.runStatus = .running
  · obtain ⟨hexec, hwb, hlog, hwatchdog, -⟩ := h.resolve_left fun ⟨f, hf⟩ => by cases hrun.symm.trans hf
    rcases Nat.lt_or_ge s.executedInstrs s.config.instrsToRun with hbudget | hbudget
    · by_cases hfault : t.faultedRun
      · exact .inl hfault
      · obtain ⟨hcycle, hretires, hdone, hwatchdog'⟩ := cycleCountsAndEndsOnBudget s t hrun hbudget hstep hfault
        have hconfig := step_config hstep
        rw [hconfig] at hdone
        have hexec' : t.executedInstrs ≤ s.config.instrsToRun := by
          rcases hretires with ⟨he, -, -⟩ | ⟨he, -, -⟩ <;> omega
        refine .inr ⟨hconfig ▸ hexec', ?_, ?_, .inr hwatchdog', fun hd => ?_⟩
        · rcases hretires with ⟨-, hl, -⟩ | ⟨-, hl, -⟩ <;> omega
        · rcases hretires with ⟨he, -, hl⟩ | ⟨he, -, record, hl⟩ <;> simp [he, hl, hlog]
        · exact hconfig ▸ Nat.le_antisymm hexec' (hdone.mp hd)
    · cases hstep.symm.trans (step_of_budgetMet hrun hbudget)
      exact .inr ⟨hexec, hwb, hlog, hwatchdog, fun _ => Nat.le_antisymm hexec hbudget⟩
  · cases hstep.symm.trans (step_of_not_running hrun)
    exact h

/-- Settles O56: a step that completes its cycle counts as O46 says, and REF moves only in the check of a record. -/
theorem stepKeepsCounters : Obligations.StepKeepsCounters := by
  refine ⟨fun s t h hstep => h.step hstep, fun s t key hexternal hstep => ?_⟩
  refine (step_refMoves hstep).imp_right fun ⟨hattached, record, href⟩ => ?_
  obtain ⟨hrecord, hmoved⟩ := Prod.mk.inj (Option.some.inj (href.symm.trans (refStep_external hexternal s.ref)))
  exact ⟨hattached, hmoved, hrecord ▸ href⟩

/-! ### Whole runs -/

/-- A construction that has not ended the run leaves the reset values of the launch (45_driver R260). -/
theorem construct_of_running {l : Launch} (h : (construct l).runStatus = .running) : construct l = .ofLaunch l := by
  cases hfail : l.config.firstFailure with
  | none => exact construct_of_firstFailure_none hfail
  | some n =>
    rw [construct_of_firstFailure hfail] at h
    cases h

/-- Settles O48: the reset values count nothing, and the first step finds the budget met. -/
theorem emptyBudgetEndsAtOnce : Obligations.EmptyBudgetEndsAtOnce := by
  intro l hrun hbudget
  have hreset := construct_of_running hrun
  refine ⟨step_of_budgetMet hrun ?_, ?_⟩
  · rw [hreset]
    exact hbudget.le
  · rw [hreset]
    exact ⟨rfl, rfl, rfl⟩

/-- Every retirement came within the watchdog's limit of the one before it, and the present cycle does (45_driver
R263). -/
def WithinWatchdog (s : State) : Prop :=
  s.lastWritebackCycle ≤ s.executedInstrs * (s.config.watchdogLimit - 1) ∧
    s.cycle ≤ s.lastWritebackCycle + (s.config.watchdogLimit - 1)

theorem State.terminal_of_not_running {s : State} (h : s.runStatus ≠ .running) : s.terminal := by
  by_cases hdone : s.runStatus = .done
  · exact .inl hdone
  · exact .inr (State.faultedRun_of_ended hdone h)

/-- With budget left, a run within the watchdog's limit has not reached the last cycle of R266. -/
theorem WithinWatchdog.cycle_le {s : State} (h : WithinWatchdog s) (hbudget : s.executedInstrs < s.config.instrsToRun) :
    s.cycle ≤ s.config.instrsToRun * (s.config.watchdogLimit - 1) := by
  obtain ⟨hretired, hcycle⟩ := h
  calc s.cycle ≤ s.executedInstrs * (s.config.watchdogLimit - 1) + (s.config.watchdogLimit - 1) := by omega
    _ = (s.executedInstrs + 1) * (s.config.watchdogLimit - 1) := (Nat.succ_mul _ _).symm
    _ ≤ s.config.instrsToRun * (s.config.watchdogLimit - 1) := Nat.mul_le_mul_right _ hbudget

/-- A step after which the run goes on has counted its cycle, with budget left and within the watchdog's limit. -/
theorem WithinWatchdog.step {s t : State} (h : WithinWatchdog s) (hrun : s.runStatus = .running)
    (hbudget : s.executedInstrs < s.config.instrsToRun) (hstep : step s = .next t) (hrun' : t.runStatus = .running) :
    t.cycle = s.cycle + 1 ∧ t.executedInstrs < t.config.instrsToRun ∧ WithinWatchdog t := by
  have hfault : ¬ t.faultedRun := fun ⟨f, hf⟩ => by cases hrun'.symm.trans hf
  obtain ⟨hcycle, hretires, hdone, hwatchdog⟩ := cycleCountsAndEndsOnBudget s t hrun hbudget hstep hfault
  have hleft : ¬ t.config.instrsToRun ≤ t.executedInstrs := fun hmet => by cases hrun'.symm.trans (hdone.mpr hmet)
  obtain ⟨hretired, hlimit⟩ := h
  refine ⟨hcycle, Nat.lt_of_not_le hleft, ?_, by omega⟩
  rw [step_config hstep]
  rcases hretires with ⟨hexec, hlast, -⟩ | ⟨hexec, hlast, -⟩
  · rwa [hexec, hlast]
  · rw [hexec, hlast, Nat.succ_mul]
    omega

theorem run_succ_of_step {M : Host.Core} {s t : M.State} (h : M.step s = .next t) (k : Nat) :
    M.run (k + 1) s = M.run k t := by
  rw [Host.Core.run, h]

/-- A run goes on from the state its first step answers. -/
theorem run_succ {s t : State} (h : step s = .next t) (k : Nat) :
    Host.Core.run Sys2Proof.core (k + 1) s = Host.Core.run Sys2Proof.core k t :=
  run_succ_of_step (M := Sys2Proof.core) h k

theorem run_of_terminal {s : State} (h : s.terminal) (k : Nat) : Host.Core.run Sys2Proof.core k s = .next s := by
  induction k with
  | zero => rfl
  | succ k ih =>
    exact (run_succ (step_of_not_running (State.terminal_not_running h)) k).trans ih

/-- A run with budget left and within the watchdog's limit ends by the last cycle of R266. -/
theorem WithinWatchdog.run_ends {s : State} (h : WithinWatchdog s) (hrun : s.runStatus = .running)
    (hbudget : s.executedInstrs < s.config.instrsToRun) {k : Nat}
    (hk : s.config.instrsToRun * (s.config.watchdogLimit - 1) + 1 ≤ s.cycle + k) :
    ∃ t : State, Host.Core.run Sys2Proof.core k s = .next t ∧ t.terminal := by
  induction k generalizing s with
  | zero =>
    have hcycle := h.cycle_le hbudget
    omega
  | succ k ih =>
    obtain ⟨t, hstep⟩ := exists_step_eq_next s
    rw [run_succ hstep]
    by_cases hrun' : t.runStatus = .running
    · obtain ⟨hcycle, hbudget', hwithin⟩ := h.step hrun hbudget hstep hrun'
      refine ih hwithin hrun' hbudget' ?_
      rw [step_config hstep]
      omega
    · have hterminal := State.terminal_of_not_running hrun'
      exact ⟨t, run_of_terminal hterminal k, hterminal⟩

/-- Settles O49: between two retirements the watchdog leaves fewer than WATCHDOG_LIMIT cycles. -/
theorem everyRunEnds : Obligations.EveryRunEnds := by
  intro l k hk
  by_cases hrun : (construct l).runStatus = .running
  · have hreset := construct_of_running hrun
    rw [hreset] at hrun ⊢
    rcases Nat.eq_zero_or_pos l.config.instrsToRun with hempty | hbudget
    · obtain ⟨k, rfl⟩ := Nat.exists_eq_add_of_le' hk
      have hstep := step_of_budgetMet hrun hempty.le
      rw [hempty, Nat.zero_mul, ← Nat.add_assoc, run_succ hstep]
      exact ⟨_, run_of_terminal (.inl rfl) _, .inl rfl⟩
    · exact WithinWatchdog.run_ends ⟨Nat.zero_le _, Nat.zero_le _⟩ hrun hbudget (hk.trans (Nat.le_add_left _ _))
  · have hterminal := State.terminal_of_not_running hrun
    exact ⟨_, run_of_terminal hterminal k, hterminal⟩

end Sys2Proof.Machine
end

section
/-!
SUPPORT. One instruction alone in the machine against one step of the canonical REF (45_driver R269, R270): its passage
up to Memory, the access, which is REF's own, and its retirement.
-/

namespace Sys2Proof.Machine

/-! ### The passage up to Memory -/

/-- The state in which an instruction alone at Decode in `s` meets Execute (43_stages R195). -/
def State.aloneAtExecute (i : Instr) (p : IfIdData) (s : State) : State :=
  { s with
    sb := sbSet s.config s.sb false i.dst
    idBuf := none
    decode2Execute := [⟨s.cycle, issuedRecord (.live i) p s⟩]
    idStatus := some (.issued p.pc)
    cycle := s.cycle + 1
    acting := .execute }

/-- The result of an instruction at `p` on the registers of `s` (43_stages R200). -/
def aloneResult (i : Instr) (p : IfIdData) (s : State) : ExecOut :=
  fitResult i.dst
    (executeInstr (isaKey s.config.isa) i p.pc (readSource s.x s.hilo i.src1) (readSource s.x s.hilo i.src2))

/-- The record Execute forwards for it (43_stages R200). -/
def executedRecord (i : Instr) (p : IfIdData) (s : State) : InstrRec :=
  { issuedRecord (.live i) p s with result := some (aloneResult i p s) }

/-- The state in which it meets Memory. -/
def State.aloneAtMemory (i : Instr) (p : IfIdData) (s : State) : State :=
  { s.aloneAtExecute i p with
    decode2Execute := []
    execute2Memory := [⟨s.cycle + 1, executedRecord i p s⟩]
    exStatus := some (.executed p.pc)
    cycle := s.cycle + 2
    acting := .memory }

section Alone
variable {i : Instr} {p : IfIdData} {s : State}

/-- With every bit valid nothing holds an instruction back (43_stages R194). -/
theorem hazardFree_of_allValid (c : CoreConfig) (i : Instr) :
    hazardFree c (Vector.replicate 33 true) (.live i) = true := by
  have hvalid (r : Option RegIdx) : sbCheck c (Vector.replicate 33 true) r = true := by
    cases r <;> simp [sbCheck]
  exact hazardFree_live_iff.mpr ⟨hvalid _, hvalid _, hvalid _⟩

/-- An issue's bit and the validation at retirement cancel (42_scoreboard R162, R163). -/
theorem sbSet_invalidate_validate (c : CoreConfig) (dst : Option RegIdx) :
    sbSet c (sbSet c (Vector.replicate 33 true) false dst) true dst = Vector.replicate 33 true := by
  have hvalid (r : RegIdx) : (sbSet c (sbSet c (Vector.replicate 33 true) false dst) true dst)[r.val] = true := by
    rw [sbSet_getElem, sbSet_getElem]
    by_cases h : dst = some r ∧ tracked c r = true <;> simp [h]
  ext k hk
  exact (hvalid ⟨k, hk⟩).trans (by simp)

theorem noWriteYet_nil {α : Type} (t : Nat) : noWriteYet t ([] : Port α) := fun _ h => by cases h

theorem exec_decode_alone (h : aloneAtDecode p s) :
    ∃ u, exec i { s with acting := .decode } = .next u ∧ u.runStatus = .running ∧
      u.nextCycle .execute = s.aloneAtExecute i p := by
  obtain ⟨hrun, hp, hP3, -, -, -, -, -, -, -, hsb⟩ := h
  refine ⟨_, (exec_decode rfl).trans (issueOp_of_hazardFree (by exact hrun) (by exact hp) ?_ ?_), hrun, ?_⟩
  · rw [hsb]
    exact hazardFree_of_allValid _ i
  · rw [hP3]
    exact noWriteYet_nil _
  · rw [State.aloneAtExecute, hP3]
    rfl

theorem exec_execute_alone (h : aloneAtDecode p s) :
    ∃ u, exec i (s.aloneAtExecute i p) = .next u ∧ u.runStatus = .running ∧
      u.nextCycle .memory = s.aloneAtMemory i p := by
  obtain ⟨hrun, -, -, hP5, -⟩ := h
  refine ⟨_, exec_execute_of_free (s := s.aloneAtExecute i p) rfl hrun
    (portRead_cons_ready (Nat.lt_succ_self s.cycle) []) ?_ rfl, hrun, ?_⟩
  · rw [State.aloneAtExecute, hP5]
    exact noWriteYet_nil _
  · rw [State.aloneAtMemory, State.aloneAtExecute, hP5]
    rfl

/-- Alone at Decode, an instruction meets Memory two cycles later (43_stages R195, R200, 70_reset R309). -/
theorem passAlone_eq (h : aloneAtDecode p s) :
    passAlone i s = andThenStage (exec i (s.aloneAtMemory i p)) fun u => exec i (u.nextCycle .writeback) := by
  obtain ⟨u, hdecode, hrunDecode, hatExecute⟩ := exec_decode_alone (i := i) h
  obtain ⟨v, hexecute, hrunExecute, hatMemory⟩ := exec_execute_alone (i := i) h
  rw [passAlone, hdecode, andThenStage_running hrunDecode, hatExecute, hexecute, andThenStage_running hrunExecute,
    hatMemory]

/-! ### Memory and Writeback -/

/-- Memory's ports are free for it (40_port_fabric R102). -/
theorem memoryPortsFree_alone (h : aloneAtDecode p s) : memoryPortsFree (s.aloneAtMemory i p) := by
  obtain ⟨-, -, -, -, hP7, hfetch, hdecode, hexecute, hmemory, htarget, -⟩ := h
  simp [memoryPortsFree, State.aloneAtMemory, State.aloneAtExecute, noWriteYet_nil, hP7, hfetch, hdecode, hexecute,
    hmemory, htarget]

theorem portRead_aloneAtMemory (i : Instr) (p : IfIdData) (s : State) :
    portRead (s.aloneAtMemory i p).cycle (s.aloneAtMemory i p).execute2Memory = some (executedRecord i p s, []) :=
  portRead_cons_ready (Nat.lt_succ_self (s.cycle + 1)) []

section Signals
variable (missed : Bool) (pc target : Word) (s : State)

@[simp] theorem withSignals_retired : (withSignals missed pc target s).retired = s.retired := by cases missed <;> rfl

@[simp] theorem withSignals_mem : (withSignals missed pc target s).mem = s.mem := by cases missed <;> rfl

@[simp] theorem withSignals_sb : (withSignals missed pc target s).sb = s.sb := by cases missed <;> rfl

@[simp] theorem withSignals_runStatus : (withSignals missed pc target s).runStatus = s.runStatus := by
  cases missed <;> rfl

@[simp] theorem withSignals_memory2Writeback :
    (withSignals missed pc target s).memory2Writeback = s.memory2Writeback := by cases missed <;> rfl

end Signals

/-- An access that takes place forwards its record to Writeback, with memory as it leaves it (43_stages R208, R209). -/
theorem exec_memory_alone (h : aloneAtDecode p s) {r : InstrRec} {m : Memory}
    (haccess : accessOf i (executedRecord i p s) s = .ok (r, m)) :
    ∃ u, exec i (s.aloneAtMemory i p) = .next u ∧ u.runStatus = .running ∧
      u.retired = { s.retired with cycle := s.cycle + 2 } ∧ u.mem = m ∧
      u.memory2Writeback = [⟨s.cycle + 2, r⟩] ∧ u.sb = sbSet s.config s.sb false i.dst := by
  have hfree := memoryPortsFree_alone (i := i) h
  obtain ⟨hrun, -, -, -, hP7, -⟩ := h
  have hatMemory : accessOf i (executedRecord i p s) (s.aloneAtMemory i p) = .ok (r, m) :=
    (accessOf_congr (t := s.aloneAtMemory i p) (s := s) rfl rfl).trans haccess
  refine ⟨_, exec_memory_of_free rfl hrun (portRead_aloneAtMemory i p s) hfree hatMemory,
    (withSignals_runStatus ..).trans hrun, withSignals_retired .., withSignals_mem .., ?_, withSignals_sb ..⟩
  rw [withSignals_memory2Writeback]
  change s.memory2Writeback ++ [⟨s.cycle + 2, r⟩] = _
  rw [hP7, List.nil_append]

/-- REF's record of an instruction whose access gave record `r` and memory `m`, and REF's state after it. -/
def refRetires (i : Instr) (r : InstrRec) (m : Memory) (ref : RefState) : RetireRecord × RefState :=
  (retireRecord (.live i) r.raw r.pc r.vSrc2 r.out,
    { pcf := r.out.newPc
      xf := writeGpr ref.xf i.dst r.out.vDst
      hilof := writeHilo ref.hilof i.dst r.out.vDst
      memf := m
      steps := ref.steps + 1 })

/-- REF's instruction makes the CORE's access, on a record with REF's own values (45_driver R269). -/
theorem refExec_eq {r : InstrRec} {ref : RefState} (hpc : ref.pcf = r.pc) (hmem : ref.memf = s.mem)
    (hvalue : readSource ref.xf ref.hilof i.src2 = r.vSrc2)
    (hout : fitResult i.dst (executeInstr (isaKey s.config.isa) i ref.pcf (readSource ref.xf ref.hilof i.src1)
      (readSource ref.xf ref.hilof i.src2)) = r.out) :
    refExec s.config i r.raw ref = (accessOf i r s).toOption.map fun access => refRetires i access.1 access.2 ref := by
  unfold refExec accessOf
  dsimp only
  rw [hout, hvalue, hpc, hmem]
  cases hload : i.isLoad with
  | true =>
    have hstore : i.isStore = false := by simpa [hload] using (oneClass i).1
    rcases memRead_cases s.config s.mem r.out.memAddr i.memSize with ⟨-, hread⟩ | ⟨-, hread⟩
    · simp only [hstore, loadAccess, hread, if_true, Bool.false_eq_true, if_false]
      rfl
    · simp only [hstore, loadAccess, hread, if_true, Bool.false_eq_true, if_false]
      rfl
  | false =>
    cases hstore : i.isStore with
    | true =>
      rcases memWrite_cases s.config s.mem r.out.memAddr i.memSize (lowWord r.vSrc2) with ⟨-, hwrite⟩ | ⟨-, hwrite⟩
      · simp only [storeAccess, hwrite, if_true, Bool.false_eq_true, if_false]
        rfl
      · simp only [storeAccess, hwrite, if_true, Bool.false_eq_true, if_false]
        rfl
    | false => rfl

/-- REF's step from where the CORE's instruction stands is that instruction with the CORE's access (45_driver R269). -/
theorem refStep_eq (hcoherent : refCoherent p s) (hcanonical : s.config.refModel = .canonical)
    (hfetch : memRead s.config s.mem p.pc 4 = .ok p.raw) (hword : decodeWord s.config.isa p.raw p.pc = .instr i) :
    refStep s.config s.ref =
      (accessOf i (executedRecord i p s) s).toOption.map fun access => refRetires i access.1 access.2 s.ref := by
  obtain ⟨hpc, hx, hhilo, hmem⟩ := hcoherent
  have hexec := refExec_eq (i := i) (s := s) (r := executedRecord i p s) (ref := s.ref) hpc hmem
    (by rw [hx, hhilo]; rfl) (by rw [hpc, hx, hhilo]; rfl)
  rw [← hexec]
  simp only [refStep, hcanonical, hpc, hmem, hfetch, hword]
  rfl

/-- What an instruction's access can do: take place, at the record's own address, or raise MISALIGNED. -/
theorem accessOf_cases (i : Instr) (r : InstrRec) (s : State) :
    (∃ r' m, accessOf i r s = .ok (r', m) ∧ r'.pc = r.pc) ∨
      accessOf i r s = .error (.misaligned r.out.memAddr i.memSize) := by
  unfold accessOf
  split
  · rcases loadAccess_cases i.memSize r s with ⟨-, h⟩ | ⟨-, h⟩
    · exact .inl ⟨_, _, h, rfl⟩
    · exact .inr h
  · split
    · rcases storeAccess_cases i.memSize r s with ⟨-, h⟩ | ⟨-, h⟩
      · exact .inl ⟨_, _, h, rfl⟩
      · exact .inr h
    · exact .inl ⟨_, _, rfl, rfl⟩

@[simp] theorem State.signalled_retired (i : Instr) (r : InstrRec) (q : Port InstrRec) (s : State) :
    (s.signalled i r q).retired = s.retired := by
  unfold State.signalled
  split
  · exact withSignals_retired ..
  · rfl

/-- A held-back access ends the run at Memory, and nothing retires (20_memory R64). -/
theorem passAlone_misaligned (h : aloneAtDecode p s) {f : Fatal}
    (haccess : accessOf i (executedRecord i p s) s = .error f) :
    ∃ t, passAlone i s = .next t ∧ t.runStatus = .faulted f ∧ t.mem = s.mem ∧
      t.retired = { s.retired with cycle := s.cycle + 2 } := by
  have hfree := memoryPortsFree_alone (i := i) h
  have hrun : (s.aloneAtMemory i p).runStatus = .running := h.1
  have hsignalled :
      accessOf i (executedRecord i p s) ((s.aloneAtMemory i p).signalled i (executedRecord i p s) []) = .error f :=
    (accessOf_congr (s := s) (State.signalled_config i _ [] (s.aloneAtMemory i p))
      (State.signalled_mem i _ [] (s.aloneAtMemory i p))).trans haccess
  rw [passAlone_eq h, exec_memory rfl, memoryOp_of_free hrun (portRead_aloneAtMemory i p s) hfree,
    accessAndForward_error hsignalled, andThenStage_ended (by simp)]
  exact ⟨_, rfl, rfl, State.signalled_mem .., State.signalled_retired ..⟩

/-- The retired part after `i` has retired the record `r` in cycle `t`, with REF left at `ref`. -/
def RetiredPart.retire (t : Nat) (i : Instr) (r : InstrRec) (ref : RefState) (p : RetiredPart) : RetiredPart :=
  ({ ({ p with cycle := t } : RetiredPart).write (.live i) r with ref := ref } : RetiredPart).count

/-- The check passes on REF's own record; attached, it leaves REF where REF's step does (43_stages R212). -/
theorem checkRecord_passes {s : State} {record : RetireRecord} {ref' : RefState}
    (hstep : refStep s.config s.ref = some (record, ref')) :
    ∃ ref, s.checkRecord record = { s with ref := ref } ∧ (s.config.checker = .attached → ref = ref') := by
  cases hchecker : s.config.checker with
  | detached => exact ⟨s.ref, checkRecord_of_agrees (.inl ⟨hchecker, rfl⟩), nofun⟩
  | attached => exact ⟨ref', checkRecord_of_agrees (.inr ⟨hchecker, hstep⟩), fun _ => rfl⟩

/-- An instruction whose access takes place retires its record, which passes the check when it is REF's (43_stages R211
to R213). -/
theorem passAlone_retires (h : aloneAtDecode p s) {r : InstrRec} {m : Memory} {ref' : RefState}
    (haccess : accessOf i (executedRecord i p s) s = .ok (r, m))
    (hstep : refStep s.config s.ref = some (retireRecord (.live i) r.raw r.pc r.vSrc2 r.out, ref')) :
    ∃ t ref, passAlone i s = .next t ∧ t.runStatus = .running ∧ t.mem = m ∧ t.sb = s.sb ∧
      t.retired = s.retired.retire (s.cycle + 3) i r ref ∧ (s.config.checker = .attached → ref = ref') := by
  obtain ⟨u, hmemory, hrun, hretired, hm, hP7, hsb⟩ := exec_memory_alone h haccess
  have hcycle : u.cycle = s.cycle + 2 := congrArg RetiredPart.cycle hretired
  have hconfig : u.config = s.config := congrArg RetiredPart.config hretired
  have href : u.ref = s.ref := congrArg RetiredPart.ref hretired
  have hread : portRead (u.nextCycle .writeback).cycle (u.nextCycle .writeback).memory2Writeback = some (r, []) := by
    rw [State.nextCycle_cycle, State.nextCycle_memory2Writeback, hP7, hcycle]
    exact portRead_cons_ready (Nat.lt_succ_self _) []
  obtain ⟨ref, hcheck, hattached⟩ := checkRecord_passes (s := (u.nextCycle .writeback).emitted (.live i) r [])
    (record := retireRecord (.live i) r.raw r.pc r.vSrc2 r.out) (ref' := ref') (by rw [← hstep, ← hconfig, ← href]; rfl)
  rw [passAlone_eq h, hmemory, andThenStage_running hrun, exec_writeback rfl, retireOp_eq hread,
    State.andThen_eq hcheck hrun rfl]
  refine ⟨_, ref, rfl, hrun, hm, ?_, ?_, hconfig ▸ hattached⟩
  · have hvalid : s.sb = Vector.replicate 33 true := by
      obtain ⟨-, -, -, -, -, -, -, -, -, -, hvalid⟩ := h
      exact hvalid
    change sbSet u.config u.sb true i.dst = s.sb
    rw [hsb, hconfig, hvalid, sbSet_invalidate_validate]
  · change u.retired.retire (u.cycle + 1) i r ref = _
    rw [hretired, hcycle]
    rfl

end Alone

/-- Settles O60: CORE and REF make the same access on the same result, so both retire its record or neither does. -/
theorem instructionAloneMatchesReference : Obligations.InstructionAloneMatchesReference := by
  intro i p s halone hcoherent hcanonical hfetch hword
  have hstep := refStep_eq hcoherent hcanonical hfetch hword
  obtain ⟨-, hx, hhilo, -⟩ := hcoherent
  rcases accessOf_cases i (executedRecord i p s) s with ⟨r, m, haccess, hpc⟩ | haccess
  · rw [haccess] at hstep
    refine ⟨fun record ref' href => ?_, fun hnone => by cases hstep.symm.trans hnone⟩
    cases hstep.symm.trans href
    obtain ⟨t, ref, hpass, hrun, hm, hsb, hretired, hattached⟩ := passAlone_retires halone haccess hstep
    refine ⟨t, hpass, hrun, ?_, ?_, hm, congrArg RetiredPart.retireLog hretired,
      congrArg RetiredPart.executedInstrs hretired, congrArg RetiredPart.lastWritebackCycle hretired, hpc, rfl, hsb,
      fun hchecker => ?_⟩
    · rw [hx]
      exact congrArg RetiredPart.x hretired
    · rw [hhilo]
      exact congrArg RetiredPart.hilo hretired
    · exact (congrArg RetiredPart.ref hretired).trans (hattached hchecker)
  · rw [haccess] at hstep
    refine ⟨fun record ref' href => (by cases hstep.symm.trans href), fun _ => ?_⟩
    obtain ⟨t, hpass, hfault, hmem, hretired⟩ := passAlone_misaligned halone haccess
    exact ⟨t, _, hpass, hfault, congrArg RetiredPart.x hretired, congrArg RetiredPart.hilo hretired, hmem,
      congrArg RetiredPart.retireLog hretired⟩

end Sys2Proof.Machine
end

section
/-!
SUPPORT. The fatals of a cycle (60_exceptions R281, R283). A stage raises fatals of its own, never DEADLOCK: only the
driver's watchdog raises that one, after the cycle (45_driver R263).
-/

namespace Sys2Proof.Machine

/-! ### No statement of a cycle raises DEADLOCK -/

/-- No DEADLOCK has ended the run. -/
def State.noDeadlock (s : State) : Prop := ∀ k, s.runStatus ≠ .faulted (.deadlock k)

/-- Whatever state the outcome answers, no DEADLOCK has ended the run. -/
def AnswersNoDeadlock (r : Result) : Prop := ∀ ⦃t⦄, r = .next t → t.noDeadlock

theorem State.noDeadlock_of_running {s : State} (h : s.runStatus = .running) : s.noDeadlock := by
  simp [State.noDeadlock, h]

theorem State.raise_noDeadlock (s : State) {f : Fatal} (hf : ∀ k, f ≠ .deadlock k) : (s.raise f).noDeadlock :=
  fun k h => hf k (RunStatus.faulted.inj h)

/-- Statements that raise no DEADLOCK raise none one after the other (60_exceptions R283). -/
theorem State.noDeadlock.andThen {s : State} {f : State → State} (hs : s.noDeadlock)
    (hf : ∀ {u : State}, u.noDeadlock → (f u).noDeadlock) : (s.andThen f).noDeadlock := by
  by_cases hrun : s.runStatus = .running
  · rw [State.andThen_running hrun]
    exact hf hs
  · rw [State.andThen_ended hrun]
    exact hs

namespace AnswersNoDeadlock

theorem next {t : State} (h : t.noDeadlock) : AnswersNoDeadlock (.next t) := by
  intro u hu
  cases hu
  exact h

theorem fault (e : Fault) : AnswersNoDeadlock (.fault e) := fun _ h => by cases h

theorem andThenStage {r : Result} {f : State → Result} (hr : AnswersNoDeadlock r)
    (hf : ∀ {u : State}, u.noDeadlock → AnswersNoDeadlock (f u)) : AnswersNoDeadlock (andThenStage r f) := by
  intro t ht
  obtain ⟨u, hu, ⟨-, hfu⟩ | ⟨-, rfl⟩⟩ := andThenStage_next ht
  · exact hf (hr hu) hfu
  · exact hr hu

theorem clockStage {shown afterRead : State} {operate : State → Result} (hshown : shown.noDeadlock)
    (hoperate : AnswersNoDeadlock (operate afterRead)) (stalled : Bool) :
    AnswersNoDeadlock (clockStage stalled shown afterRead operate) := by
  cases stalled
  · exact hoperate
  · exact next hshown

end AnswersNoDeadlock

/-! A port write raises at most PORT_BANDWIDTH (40_port_fabric R102), Fetch PORT_PROTOCOL or MISALIGNED, an access
MISALIGNED and the check CHECKER_MISMATCH (60_exceptions R281). -/

namespace State.noDeadlock
variable {s : State}

theorem putFetch2Decode (h : s.noDeadlock) (p : IfIdData) : (s.putFetch2Decode p).noDeadlock := by
  unfold State.putFetch2Decode; split; exacts [h, s.raise_noDeadlock nofun]

theorem putDecode2FetchStall (h : s.noDeadlock) : s.putDecode2FetchStall.noDeadlock := by
  unfold State.putDecode2FetchStall; split; exacts [h, s.raise_noDeadlock nofun]

theorem putDecode2Execute (h : s.noDeadlock) (r : InstrRec) : (s.putDecode2Execute r).noDeadlock := by
  unfold State.putDecode2Execute; split; exacts [h, s.raise_noDeadlock nofun]

theorem putExecute2Memory (h : s.noDeadlock) (r : InstrRec) : (s.putExecute2Memory r).noDeadlock := by
  unfold State.putExecute2Memory; split; exacts [h, s.raise_noDeadlock nofun]

theorem putMemory2Writeback (h : s.noDeadlock) (r : InstrRec) : (s.putMemory2Writeback r).noDeadlock := by
  unfold State.putMemory2Writeback; split; exacts [h, s.raise_noDeadlock nofun]

theorem putFetchFlush (h : s.noDeadlock) : s.putFetchFlush.noDeadlock := by
  unfold State.putFetchFlush; split; exacts [h, s.raise_noDeadlock nofun]

theorem putDecodeFlush (h : s.noDeadlock) : s.putDecodeFlush.noDeadlock := by
  unfold State.putDecodeFlush; split; exacts [h, s.raise_noDeadlock nofun]

theorem putExecuteFlush (h : s.noDeadlock) : s.putExecuteFlush.noDeadlock := by
  unfold State.putExecuteFlush; split; exacts [h, s.raise_noDeadlock nofun]

theorem putMemoryFlush (h : s.noDeadlock) : s.putMemoryFlush.noDeadlock := by
  unfold State.putMemoryFlush; split; exacts [h, s.raise_noDeadlock nofun]

theorem putFetchTarget (h : s.noDeadlock) (a : Word) : (s.putFetchTarget a).noDeadlock := by
  unfold State.putFetchTarget; split; exacts [h, s.raise_noDeadlock nofun]

theorem takePacket (h : s.noDeadlock) : s.takePacket.noDeadlock := by
  obtain ⟨q, buf, htake⟩ := s.takePacket_frame
  rw [htake]
  exact h

theorem validateAll (h : s.noDeadlock) (rs : List InstrRec) : (State.validateAll rs s).noDeadlock := by
  obtain ⟨sb, hvalidate, -⟩ := validateAll_getElem_iff rs s
  rw [hvalidate]
  exact h

theorem redirect (h : s.noDeadlock) : s.redirect.noDeadlock := by
  unfold State.redirect
  dsimp only
  split
  · split
    · exact State.raise_noDeadlock _ nofun
    · exact h
  · exact h

theorem fetchWord (h : s.noDeadlock) : s.fetchWord.noDeadlock := by
  rcases memRead_cases s.config s.mem s.pc 4 with ⟨-, hread⟩ | ⟨-, hread⟩
  · rw [State.fetchWord, hread]
    exact (putFetch2Decode (by exact h) _).andThen fun hu => hu
  · rw [fetchWord_of_error hread]
    exact s.raise_noDeadlock nofun

theorem broadcastFlush (h : s.noDeadlock) (pc target : Word) : (s.broadcastFlush pc target).noDeadlock :=
  ((((h.putFetchFlush.andThen putDecodeFlush).andThen putExecuteFlush).andThen putMemoryFlush).andThen
    fun hu => hu.putFetchTarget target).andThen fun hu => hu

theorem accessAndForward (h : s.noDeadlock) (i : Instr) (r : InstrRec) (missed : Bool) :
    (s.accessAndForward (accessOf i) r missed).noDeadlock := by
  rcases accessOf_cases i r s with ⟨r', m, haccess, -⟩ | haccess
  · rw [State.accessAndForward, haccess]
    exact (putMemory2Writeback (by exact h) _).andThen fun hu => by cases missed <;> exact hu
  · rw [State.accessAndForward, haccess]
    exact s.raise_noDeadlock nofun

theorem checkRecord (h : s.noDeadlock) (record : RetireRecord) : (s.checkRecord record).noDeadlock := by
  rcases checkRecord_cases record s with ⟨-, hcheck⟩ | ⟨ref', -, -, hcheck⟩ | ⟨other, ref', -, hcheck⟩
  · rw [hcheck]; exact h
  · rw [hcheck]; exact h
  · rw [hcheck]; exact State.raise_noDeadlock _ nofun

end State.noDeadlock

section Stages
variable {s t : State}

/-! ### The operations of the stages -/

theorem issueOp_noDeadlock (h : s.noDeadlock) (b : Body) : AnswersNoDeadlock (issueOp b s) := by
  unfold issueOp
  split
  · exact .fault _
  · split
    · exact .next ((State.noDeadlock.putDecode2Execute (by exact h) _).andThen fun hu => hu)
    · exact .next (h.putDecode2FetchStall.andThen fun hu => hu)

theorem rejectOp_noDeadlock (h : s.noDeadlock) (code : Poison) (pc : Word) :
    AnswersNoDeadlock (rejectOp code pc s) := by
  unfold rejectOp
  split
  · exact issueOp_noDeadlock h _
  · cases code
    · exact .next (s.raise_noDeadlock nofun)
    · exact .next (s.raise_noDeadlock nofun)

theorem executeOp_noDeadlock (h : s.noDeadlock) (f : InstrRec → InstrRec) : AnswersNoDeadlock (executeOp f s) := by
  unfold executeOp
  split
  · exact .fault _
  · exact .next ((State.noDeadlock.putExecute2Memory (by exact h) _).andThen fun hu => hu)

theorem memoryOp_noDeadlock (h : s.noDeadlock) (i : Instr) : AnswersNoDeadlock (memoryOp i (accessOf i) s) := by
  unfold memoryOp
  split
  · exact .fault _
  · refine .next (State.noDeadlock.andThen ?_ fun hu => hu.accessAndForward i _ _)
    split
    · exact State.noDeadlock.broadcastFlush (by exact h) _ _
    · exact h

theorem retireOp_noDeadlock (h : s.noDeadlock) (b : Body) : AnswersNoDeadlock (retireOp b s) := by
  unfold retireOp
  split
  · exact .fault _
  · exact .next ((State.noDeadlock.checkRecord (by exact h) _).andThen fun hu => hu)

/-- No instruction raises DEADLOCK in any stage: its meaning is the operation of the stage that is acting (log 7). -/
theorem exec_noDeadlock (h : s.noDeadlock) (i : Instr) : AnswersNoDeadlock (exec i s) := by
  rw [exec_eq_runStage]
  unfold runStage
  split
  · exact .fault _
  · exact issueOp_noDeadlock h _
  · exact executeOp_noDeadlock h _
  · exact memoryOp_noDeadlock h i
  · exact retireOp_noDeadlock h _

/-! ### The stages and the cycle -/

theorem fetchStage_noDeadlock (h : s.noDeadlock) : AnswersNoDeadlock (fetchStage s) := by
  unfold fetchStage
  dsimp only
  split
  · exact .next h
  · exact .next ((State.noDeadlock.redirect (by exact h)).andThen State.noDeadlock.fetchWord)

theorem decodeWork_noDeadlock (h : s.noDeadlock) : AnswersNoDeadlock (decodeWork s) := by
  unfold decodeWork
  split
  · exact .next h.takePacket
  · split
    · exact exec_noDeadlock h.takePacket _
    · exact rejectOp_noDeadlock h.takePacket _ _
    · exact rejectOp_noDeadlock h.takePacket _ _

theorem decodeStage_noDeadlock (h : s.noDeadlock) : AnswersNoDeadlock (decodeStage s) := by
  refine .clockStage (by exact h) ?_ _
  unfold decodeOperate
  dsimp only
  split
  · exact .next h
  · exact decodeWork_noDeadlock h

theorem executeWork_noDeadlock (h : s.noDeadlock) : AnswersNoDeadlock (executeWork s) := by
  unfold executeWork
  split
  · exact .next h
  · split
    · exact exec_noDeadlock h _
    · exact executeOp_noDeadlock h _

theorem executeStage_noDeadlock (h : s.noDeadlock) : AnswersNoDeadlock (executeStage s) := by
  refine .clockStage (by exact h) ?_ _
  unfold executeOperate
  dsimp only
  split
  · exact .next (State.noDeadlock.validateAll (by exact h) _)
  · exact executeWork_noDeadlock h

theorem memoryWork_noDeadlock (h : s.noDeadlock) : AnswersNoDeadlock (memoryWork s) := by
  unfold memoryWork
  split
  · exact .next h
  · split
    · exact exec_noDeadlock h _
    · exact .next (State.raise_noDeadlock _ nofun)
    · exact .next (State.raise_noDeadlock _ nofun)

theorem memoryStage_noDeadlock (h : s.noDeadlock) : AnswersNoDeadlock (memoryStage s) := by
  refine .clockStage (by exact h) ?_ _
  unfold memoryOperate
  dsimp only
  split
  · exact .next (State.noDeadlock.validateAll (by exact h) _)
  · exact memoryWork_noDeadlock h

theorem writebackStage_noDeadlock (h : s.noDeadlock) : AnswersNoDeadlock (writebackStage s) := by
  intro t ht
  rcases writebackStage_cases ht with rfl | ⟨r, -, -, hretire⟩
  · exact h
  · exact retireOp_noDeadlock (s := { s with acting := .writeback }) h r.body hretire

/-- The fatals of a cycle do not include DEADLOCK (60_exceptions R281). -/
theorem cycleStep_noDeadlock (h : s.noDeadlock) : AnswersNoDeadlock (cycleStep s) :=
  ((((fetchStage_noDeadlock (by exact h)).andThenStage decodeStage_noDeadlock).andThenStage
    executeStage_noDeadlock).andThenStage memoryStage_noDeadlock).andThenStage writebackStage_noDeadlock

/-- A cycle does not count itself, whether a fatal ends it or not (45_driver R261). -/
theorem cycleStep_cycle (h : cycleStep s = .next t) : t.cycle = s.cycle := by
  rcases cycleStep_cases h with hkept | ⟨w, hrun, hkept, hwb⟩
  · exact congrArg RetiredPart.cycle hkept
  · have hcycle : w.cycle = s.cycle := congrArg RetiredPart.cycle hkept
    rw [← hcycle]
    rcases writebackStage_cases hwb with rfl | ⟨r, -, -, hretire⟩
    · rfl
    · obtain ⟨r', -, ref', -, ⟨-, hmoved⟩ | ⟨-, -, hmoved⟩⟩ := retireOp_cases hretire hrun
      · exact congrArg RetiredPart.cycle hmoved
      · exact congrArg RetiredPart.cycle hmoved

/-- A fatal of the driver after a completed cycle is the watchdog's DEADLOCK, at the counted cycle (45_driver R263). -/
theorem endCycle_faulted {f : Fatal} (hrun : s.runStatus = .running) (hfault : s.endCycle.runStatus = .faulted f) :
    f = .deadlock s.endCycle.cycle ∧
      s.endCycle.config.watchdogLimit ≤ s.endCycle.cycle - s.endCycle.lastWritebackCycle := by
  rcases endCycle_cases s with ⟨hwatchdog, hend⟩ | ⟨-, -, hend⟩ | ⟨-, -, hend⟩
  · rw [hend] at hfault ⊢
    cases hfault
    exact ⟨rfl, hwatchdog⟩
  · rw [hend] at hfault
    cases hfault
  · rw [hend] at hfault
    cases hrun.symm.trans hfault

end Stages

/-- Settles O44: in a cycle every stage proceeds, and the driver answers the rest itself. -/
theorem stepAlwaysAnswersNext : Obligations.StepAlwaysAnswersNext :=
  exists_step_eq_next

/-- Settles O47: a fatal of a stage ends the step before the count, and DEADLOCK is the driver's only fatal. -/
theorem fatalLeavesCycleUncounted : Obligations.FatalLeavesCycleUncounted := by
  intro s t f hrun hstep hfault
  rcases Nat.lt_or_ge s.executedInstrs s.config.instrsToRun with hbudget | hbudget
  · obtain ⟨u, hcycle, ⟨hu, hnext⟩ | ⟨-, hnext⟩⟩ := step_of_budgetLeft hrun hbudget
    · cases hstep.symm.trans hnext
      refine .inr ⟨?_, endCycle_faulted hu hfault⟩
      rw [← cycleStep_cycle hcycle]
      exact congrArg RetiredPart.cycle (endCycle_retired u)
    · cases hstep.symm.trans hnext
      refine .inl ⟨cycleStep_cycle hcycle, ?_⟩
      rintro k rfl
      exact cycleStep_noDeadlock (State.noDeadlock_of_running hrun) hcycle k hfault
  · cases hstep.symm.trans (step_of_budgetMet hrun hbudget)
    cases hfault

end Sys2Proof.Machine
end

section
/-!
SUPPORT. The fill of the pipeline (70_reset R309): in a cycle each stage passes on only what was ready in the port it
reads, so no record moves through two ports in one cycle.
-/

namespace Sys2Proof.Machine

/-! ### What passes from one port to the next -/

section Ports
variable {α : Type} {t : Nat} {p p' q : Port α}

/-- How many entries of a port were written before cycle `t`: those a read or a flush of that cycle can remove. -/
def readyCount (t : Nat) (q : Port α) : Nat := (portFlushed t q).length

theorem readyCount_le_length (t : Nat) (q : Port α) : readyCount t q ≤ q.length := by
  rw [readyCount, portFlushed, List.length_map]
  exact List.length_filter_le _ _

/-- The write of a cycle is not ready in it (40_port_fabric R106). -/
theorem readyCount_written (t : Nat) (v : α) (q : Port α) : readyCount t (written t v q) = readyCount t q := by
  rw [readyCount, portFlushed_written, readyCount]

theorem length_written (t : Nat) (v : α) (q : Port α) : (written t v q).length = q.length + 1 := List.length_append

theorem length_portKept_le (t : Nat) (q : Port α) : (portKept t q).length ≤ q.length := List.length_filter_le _ _

/-- A read removes one entry, which was ready (40_port_fabric R103). -/
theorem count_of_portRead {v : α} (h : portRead t p = some (v, p')) : 0 < readyCount t p ∧ p.length = p'.length + 1 := by
  obtain ⟨e, rfl, -, hready⟩ := portRead_some h
  exact ⟨by simp [readyCount, portFlushed, hready], rfl⟩

theorem length_le_of_portRead {v : α} (h : portRead t p = some (v, p')) : p'.length ≤ p.length := by
  obtain ⟨-, hlength⟩ := count_of_portRead h
  omega

/-- In cycle `t` a stage has taken the port it reads from `p` to `p'` and the port it writes from `q` to `q'`: what it
passed on was ready, and what it wrote is not. -/
def PassesReady (t : Nat) (p p' q q' : Port α) : Prop :=
  ∃ n ≤ readyCount t p, p'.length + n ≤ p.length ∧ q'.length ≤ q.length + n ∧ readyCount t q' ≤ readyCount t q

/-- A stage that writes nothing has kept or discarded entries. -/
theorem PassesReady.of_length_le (h : p'.length ≤ p.length) : PassesReady t p p' q q :=
  ⟨0, Nat.zero_le _, h, le_rfl, le_rfl⟩

theorem PassesReady.of_portRead {v : α} (h : portRead t p = some (v, p')) (w : α) :
    PassesReady t p p' q (written t w q) := by
  obtain ⟨hready, hlength⟩ := count_of_portRead h
  exact ⟨1, hready, hlength.ge, (length_written t w q).le, (readyCount_written t w q).le⟩

end Ports

/-- The ports that hold records: P3, P5 and P7. -/
def State.recordPorts (s : State) : Port InstrRec × Port InstrRec × Port InstrRec :=
  (s.decode2Execute, s.execute2Memory, s.memory2Writeback)

theorem State.validateAll_recordPorts (rs : List InstrRec) (s : State) :
    (State.validateAll rs s).recordPorts = s.recordPorts := by
  obtain ⟨sb, h, -⟩ := validateAll_getElem_iff rs s
  rw [h]
  rfl

theorem State.recordPorts_eq_iff {s : State} {p q r : Port InstrRec} :
    s.recordPorts = (p, q, r) ↔ s.decode2Execute = p ∧ s.execute2Memory = q ∧ s.memory2Writeback = r := by
  simp [State.recordPorts]

/-! ### Fetch -/

section Fetch
variable {s t : State}

/-- Decode's buffer and the records behind it: what Fetch leaves alone. -/
def State.behindFetch (s : State) : Option IfIdData × Port InstrRec × Port InstrRec × Port InstrRec :=
  (s.idBuf, s.recordPorts)

theorem State.redirect_behindFetch (s : State) : s.redirect.behindFetch = s.behindFetch := by
  unfold State.redirect
  dsimp only
  split
  · split
    · rfl
    · rfl
  · rfl

theorem State.fetchWord_behindFetch (s : State) : s.fetchWord.behindFetch = s.behindFetch := by
  unfold State.fetchWord
  split
  · rfl
  · refine State.andThen_keeps State.behindFetch ?_ fun _ => rfl
    simp [State.behindFetch, State.recordPorts]

theorem fetchStage_behindFetch (h : fetchStage s = .next t) : t.behindFetch = s.behindFetch := by
  unfold fetchStage at h
  dsimp only at h
  split at h
  · cases h; rfl
  · cases h
    exact State.andThen_keeps State.behindFetch (State.redirect_behindFetch _) State.fetchWord_behindFetch

end Fetch

/-! ### Decode -/

/-- From `s` to `t` Decode has issued nothing, or one record, for a packet that it held or read. Before cycle 1 no packet
can be read. -/
def State.Issues (s t : State) : Prop :=
  t.recordPorts = s.recordPorts ∨
    ((s.idBuf ≠ none ∨ 0 < s.cycle) ∧
      ∃ r, t.recordPorts = (written s.cycle r s.decode2Execute, s.execute2Memory, s.memory2Writeback))

section Decode
variable {s t : State}

theorem issueOp_recordPorts {b : Body} (h : issueOp b s = .next t) :
    t.recordPorts = s.recordPorts ∨
      ∃ r, t.recordPorts = (written s.cycle r s.decode2Execute, s.execute2Memory, s.memory2Writeback) := by
  unfold issueOp at h
  split at h
  · cases h
  · next p _ =>
    split at h
    · cases h
      rcases putDecode2Execute_cases (issuedRecord b p s) { s.invalidate b.dst with idBuf := none } with ⟨-, hput⟩ | hput
      · exact .inr ⟨issuedRecord b p s, State.andThen_keeps State.recordPorts (by rw [hput]; rfl) fun _ => rfl⟩
      · exact .inl (State.andThen_keeps State.recordPorts (by rw [hput]; rfl) fun _ => rfl)
    · cases h
      exact .inl (State.andThen_keeps State.recordPorts (by simp [State.recordPorts]) fun _ => rfl)

theorem rejectOp_recordPorts {code : Poison} {pc : Word} (h : rejectOp code pc s = .next t) :
    t.recordPorts = s.recordPorts ∨
      ∃ r, t.recordPorts = (written s.cycle r s.decode2Execute, s.execute2Memory, s.memory2Writeback) := by
  unfold rejectOp at h
  split at h
  · exact issueOp_recordPorts h
  · split at h <;> cases h <;> exact .inl rfl

/-- The packet Decode works on was buffered, or read from P1 in a cycle after the first. -/
theorem packet_of_takePacket {p : IfIdData} (h : s.takePacket.idBuf = some p) : s.idBuf ≠ none ∨ 0 < s.cycle := by
  rcases takePacket_cases s with ⟨hbusy, -⟩ | ⟨hfree, -, htake⟩ | ⟨p', q, -, hread, -⟩
  · exact .inl hbusy
  · rw [htake, hfree] at h
    cases h
  · obtain ⟨e, -, -, hready⟩ := portRead_some hread
    exact .inr (Nat.zero_lt_of_lt hready)

theorem decodeWork_issues (h : decodeWork s = .next t) (ha : s.acting = .decode) : s.Issues t := by
  obtain ⟨q, buf, htake⟩ := s.takePacket_frame
  unfold decodeWork at h
  split at h
  · cases h
    rw [htake]
    exact .inl rfl
  · next p hp =>
    have hpacket := packet_of_takePacket hp
    have hacting := s.takePacket_acting.trans ha
    rw [htake] at h hacting
    split at h
    · rw [exec_decode hacting] at h
      exact (issueOp_recordPorts h).imp_right fun hissued => ⟨hpacket, hissued⟩
    · exact (rejectOp_recordPorts h).imp_right fun hissued => ⟨hpacket, hissued⟩
    · exact (rejectOp_recordPorts h).imp_right fun hissued => ⟨hpacket, hissued⟩

theorem decodeOperate_issues (h : decodeOperate s = .next t) (ha : s.acting = .decode) : s.Issues t := by
  unfold decodeOperate at h
  dsimp only at h
  split at h
  · cases h; exact .inl rfl
  · have hwork := decodeWork_issues h ha
    exact hwork

theorem decodeStage_issues (h : decodeStage s = .next t) : s.Issues t := by
  unfold decodeStage clockStage at h
  dsimp only at h
  split at h
  · cases h; exact .inl rfl
  · have hoperate := decodeOperate_issues h rfl
    exact hoperate

end Decode

/-! ### Execute -/

/-- From `s` to `t` Execute has passed records from P3 to P5; P7 stays. -/
def State.PassesExecute (s t : State) : Prop :=
  ∃ p q, t.recordPorts = (p, q, s.memory2Writeback) ∧ PassesReady s.cycle s.decode2Execute p s.execute2Memory q

section Execute
variable {s t : State}

theorem executeOp_passes {f : InstrRec → InstrRec} (h : executeOp f s = .next t) : s.PassesExecute t := by
  unfold executeOp at h
  split at h
  · cases h
  · next r q hread =>
    cases h
    rcases putExecute2Memory_cases (f r) { s with decode2Execute := q } with ⟨-, hput⟩ | hput
    · exact ⟨q, written s.cycle (f r) s.execute2Memory,
        State.andThen_keeps State.recordPorts (by rw [hput]; rfl) fun _ => rfl, .of_portRead hread _⟩
    · exact ⟨q, s.execute2Memory, State.andThen_keeps State.recordPorts (by rw [hput]; rfl) fun _ => rfl,
        .of_length_le (length_le_of_portRead hread)⟩

theorem executeWork_passes (h : executeWork s = .next t) (ha : s.acting = .execute) : s.PassesExecute t := by
  unfold executeWork at h
  split at h
  · cases h; exact ⟨_, _, rfl, .of_length_le le_rfl⟩
  · split at h
    · rw [exec_execute ha] at h
      exact executeOp_passes h
    · exact executeOp_passes h

theorem executeOperate_passes (h : executeOperate s = .next t) (ha : s.acting = .execute) : s.PassesExecute t := by
  unfold executeOperate at h
  dsimp only at h
  split at h
  · cases h
    exact ⟨_, _, State.validateAll_recordPorts _ _, .of_length_le (length_portKept_le s.cycle s.decode2Execute)⟩
  · have hwork := executeWork_passes h ha
    exact hwork

theorem executeStage_passes (h : executeStage s = .next t) : s.PassesExecute t := by
  unfold executeStage clockStage at h
  dsimp only at h
  split at h
  · cases h; exact ⟨_, _, rfl, .of_length_le le_rfl⟩
  · have hoperate := executeOperate_passes h rfl
    exact hoperate

end Execute

/-! ### Memory -/

/-- From `s` to `t` Memory has passed records from P5 to P7; P3 stays. -/
def State.PassesMemory (s t : State) : Prop :=
  ∃ p q, t.recordPorts = (s.decode2Execute, p, q) ∧ PassesReady s.cycle s.execute2Memory p s.memory2Writeback q

section Memory
variable {s t : State}

theorem State.broadcastFlush_recordPorts (s : State) (pc target : Word) :
    (s.broadcastFlush pc target).recordPorts = s.recordPorts := by
  unfold State.broadcastFlush
  refine State.andThen_keeps State.recordPorts ?_ fun _ => rfl
  refine State.andThen_keeps State.recordPorts ?_ fun u => by simp [State.recordPorts]
  refine State.andThen_keeps State.recordPorts ?_ fun u => by simp [State.recordPorts]
  refine State.andThen_keeps State.recordPorts ?_ fun u => by simp [State.recordPorts]
  exact State.andThen_keeps State.recordPorts (by simp [State.recordPorts]) fun u => by simp [State.recordPorts]

/-- An access forwards its record to P7 and moves no other record, or a fatal keeps it from that (43_stages R208,
R209). -/
theorem accessAndForward_recordPorts (access : Access) (r : InstrRec) (missed : Bool) (s : State) :
    (s.accessAndForward access r missed).recordPorts = s.recordPorts ∨
      ∃ v, (s.accessAndForward access r missed).recordPorts =
        (s.decode2Execute, s.execute2Memory, written s.cycle v s.memory2Writeback) := by
  unfold State.accessAndForward
  split
  · exact .inl rfl
  · next r' m _ =>
    rcases putMemory2Writeback_cases r' { s with mem := m } with ⟨-, hput⟩ | hput
    · exact .inr ⟨r', State.andThen_keeps State.recordPorts (by rw [hput]; rfl) fun _ => by cases missed <;> rfl⟩
    · exact .inl (State.andThen_keeps State.recordPorts (by rw [hput]; rfl) fun _ => by cases missed <;> rfl)

/-- Once Memory has read the port P5 down to `q`, its access passes the record on, unless a fatal has ended the run. -/
theorem State.andThen_passesMemory {r : InstrRec} {q : Port InstrRec} {u : State}
    (hread : portRead s.cycle s.execute2Memory = some (r, q)) (hcycle : u.cycle = s.cycle)
    (hports : u.recordPorts = (s.decode2Execute, q, s.memory2Writeback)) (access : Access) (missed : Bool) :
    s.PassesMemory (u.andThen (State.accessAndForward access r missed)) := by
  have hkept : PassesReady s.cycle s.execute2Memory q s.memory2Writeback s.memory2Writeback :=
    .of_length_le (length_le_of_portRead hread)
  by_cases hrun : u.runStatus = .running
  · rw [State.andThen_running hrun]
    rcases accessAndForward_recordPorts access r missed u with hsame | ⟨v, hforwarded⟩
    · exact ⟨q, s.memory2Writeback, hsame.trans hports, hkept⟩
    · obtain ⟨hissued, hexecuted, hwaiting⟩ : u.decode2Execute = s.decode2Execute ∧ u.execute2Memory = q ∧
          u.memory2Writeback = s.memory2Writeback := by simpa [State.recordPorts] using hports
      rw [hcycle, hissued, hexecuted, hwaiting] at hforwarded
      exact ⟨q, written s.cycle v s.memory2Writeback, hforwarded, .of_portRead hread v⟩
  · rw [State.andThen_ended hrun]
    exact ⟨q, s.memory2Writeback, hports, hkept⟩

theorem memoryOp_passes {i : Instr} {access : Access} (h : memoryOp i access s = .next t) : s.PassesMemory t := by
  unfold memoryOp at h
  split at h
  · cases h
  · next r q hread =>
    cases h
    refine State.andThen_passesMemory hread ?_ ?_ access _
    · split
      · exact congrArg RetiredPart.cycle (State.broadcastFlush_retired _ _ _)
      · rfl
    · split
      · exact State.broadcastFlush_recordPorts _ _ _
      · rfl

/-- Memory's work passes its record on, is idle, or raises a poisoned record's fatal (43_stages R203). -/
theorem memoryWork_passes (h : memoryWork s = .next t) (ha : s.acting = .memory) : s.PassesMemory t := by
  unfold memoryWork at h
  split at h
  · cases h; exact ⟨_, _, rfl, .of_length_le le_rfl⟩
  · next r q hread =>
    split at h
    · rw [exec_memory ha] at h
      exact memoryOp_passes h
    · cases h; exact ⟨_, _, rfl, .of_length_le (length_le_of_portRead hread)⟩
    · cases h; exact ⟨_, _, rfl, .of_length_le (length_le_of_portRead hread)⟩

theorem memoryOperate_passes (h : memoryOperate s = .next t) (ha : s.acting = .memory) : s.PassesMemory t := by
  unfold memoryOperate at h
  dsimp only at h
  split at h
  · cases h
    exact ⟨_, _, State.validateAll_recordPorts _ _, .of_length_le (length_portKept_le s.cycle s.execute2Memory)⟩
  · have hwork := memoryWork_passes h ha
    exact hwork

theorem memoryStage_passes (h : memoryStage s = .next t) : s.PassesMemory t := by
  unfold memoryStage clockStage at h
  dsimp only at h
  split at h
  · cases h; exact ⟨_, _, rfl, .of_length_le le_rfl⟩
  · have hoperate := memoryOperate_passes h rfl
    exact hoperate

end Memory

/-! ### Writeback -/

section Writeback
variable {s t : State}

/-- Writeback retires a record that was ready in P7, or none; P3 and P5 stay (43_stages R210, R213). -/
theorem writebackStage_retires (h : writebackStage s = .next t) (hrun : s.runStatus = .running) :
    ∃ n ≤ readyCount s.cycle s.memory2Writeback, t.executedInstrs ≤ s.executedInstrs + n ∧
      ∃ q, t.recordPorts = (s.decode2Execute, s.execute2Memory, q) ∧ q.length + n ≤ s.memory2Writeback.length := by
  rcases writebackStage_cases h with rfl | ⟨r, q, hread, hretire⟩
  · exact ⟨0, Nat.zero_le _, le_rfl, _, rfl, le_rfl⟩
  · obtain ⟨hready, hlength⟩ := count_of_portRead hread
    have hframe := retireOp_withWritebackFields (s := { s with acting := .writeback }) hread hretire
    obtain ⟨-, hport⟩ := retireOp_frame (s := { s with acting := .writeback }) hread hretire
    have hports : t.recordPorts = (s.decode2Execute, s.execute2Memory, q) := by
      have hissued := congrArg State.decode2Execute hframe
      have hexecuted := congrArg State.execute2Memory hframe
      exact State.recordPorts_eq_iff.mpr ⟨hissued, hexecuted, hport⟩
    refine ⟨1, hready, ?_, q, hports, hlength.ge⟩
    obtain ⟨r', q', ref', -, ⟨-, hcounted⟩ | ⟨other, -, hmismatch⟩⟩ := retireOp_cases hretire hrun
    · exact (congrArg RetiredPart.executedInstrs hcounted).le
    · exact (congrArg RetiredPart.executedInstrs hmismatch).le.trans (Nat.le_succ _)

end Writeback

/-! ### The cycle and the step -/

section Step
variable {s t : State}

/-- A sequence whose run goes on has run both its parts (60_exceptions R283). -/
theorem andThenStage_next_running {r : Result} {f : State → Result} (h : andThenStage r f = .next t)
    (hrun : t.runStatus = .running) : ∃ u, r = .next u ∧ u.runStatus = .running ∧ f u = .next t := by
  obtain ⟨u, hu, ⟨hurun, hfu⟩ | ⟨hended, rfl⟩⟩ := andThenStage_next h
  · exact ⟨u, hu, hurun, hfu⟩
  · exact absurd hrun hended

/-- The bounds of the fill at the start of cycle `c`: records that have passed Decode, Execute, Memory and Writeback. -/
def State.FilledBy (c : Nat) (s : State) : Prop :=
  s.executedInstrs ≤ c - 4 ∧ s.executedInstrs + s.memory2Writeback.length ≤ c - 3 ∧
    s.executedInstrs + s.memory2Writeback.length + s.execute2Memory.length ≤ c - 2 ∧
    s.executedInstrs + s.memory2Writeback.length + s.execute2Memory.length + s.decode2Execute.length ≤ c - 1

/-- Decode issues one record at most, and none before cycle 1. -/
theorem State.Issues.count (h : s.Issues t) (hempty : s.cycle = 0 → s.idBuf = none) :
    ∃ n ≤ min 1 s.cycle, t.decode2Execute.length ≤ s.decode2Execute.length + n ∧
      readyCount s.cycle t.decode2Execute ≤ s.decode2Execute.length ∧ t.execute2Memory = s.execute2Memory ∧
      t.memory2Writeback = s.memory2Writeback := by
  have hready := readyCount_le_length s.cycle s.decode2Execute
  rcases h with hkept | ⟨hpacket, r, hissued⟩
  · obtain ⟨hissued, hrest⟩ := State.recordPorts_eq_iff.mp hkept
    rw [hissued]
    exact ⟨0, Nat.zero_le _, le_rfl, hready, hrest⟩
  · obtain ⟨hissued, hrest⟩ := State.recordPorts_eq_iff.mp hissued
    have hcycle : 0 < s.cycle := hpacket.elim (fun hbusy => Nat.pos_of_ne_zero fun h0 => hbusy (hempty h0)) id
    rw [hissued, readyCount_written]
    exact ⟨1, by omega, (length_written _ _ _).le, hready, hrest⟩

/-- Fetch and Decode of a cycle issue one record at most. -/
theorem beforeExecute_issues (h : andThenStage (fetchStage s.beginCycle) decodeStage = .next t)
    (hrun : t.runStatus = .running) : t.retired = s.retired ∧ s.Issues t := by
  obtain ⟨u, hfetch, -, hdecode⟩ := andThenStage_next_running h hrun
  have hretired : u.retired = s.retired := fetchStage_retired (s := s.beginCycle) hfetch
  have hcycle : u.cycle = s.cycle := congrArg RetiredPart.cycle hretired
  obtain ⟨hbuf, hports⟩ : u.idBuf = s.idBuf ∧ u.recordPorts = s.recordPorts :=
    Prod.mk.inj (fetchStage_behindFetch (s := s.beginCycle) hfetch)
  obtain ⟨hissued, hexecuted, hforwarded⟩ := State.recordPorts_eq_iff.mp hports
  have hissues := decodeStage_issues hdecode
  unfold State.Issues at hissues
  rw [hcycle, hbuf, hports, hissued, hexecuted, hforwarded] at hissues
  exact ⟨(decodeStage_retired hdecode).trans hretired, hissues⟩

/-- Up to Writeback a cycle issues `d` records, passes `x` on to P5 and `m` on to P7, where `x` and `m` count records
that stood in P3 and P5 when it began. -/
theorem beforeWriteback_passes (hempty : s.cycle = 0 → s.idBuf = none)
    (h : andThenStage (andThenStage (andThenStage (fetchStage s.beginCycle) decodeStage) executeStage) memoryStage = .next t)
    (hrun : t.runStatus = .running) :
    t.retired = s.retired ∧ ∃ d ≤ min 1 s.cycle, ∃ x ≤ s.decode2Execute.length, ∃ m ≤ s.execute2Memory.length,
      t.decode2Execute.length + x ≤ s.decode2Execute.length + d ∧
      t.execute2Memory.length + m ≤ s.execute2Memory.length + x ∧
      t.memory2Writeback.length ≤ s.memory2Writeback.length + m ∧
      readyCount s.cycle t.memory2Writeback ≤ s.memory2Writeback.length := by
  obtain ⟨v, hv, hvrun, hmemory⟩ := andThenStage_next_running h hrun
  obtain ⟨u, hu, hurun, hexecute⟩ := andThenStage_next_running hv hvrun
  obtain ⟨huretired, hissues⟩ := beforeExecute_issues hu hurun
  have hvretired := (executeStage_retired hexecute).trans huretired
  have hucycle : u.cycle = s.cycle := congrArg RetiredPart.cycle huretired
  have hvcycle : v.cycle = s.cycle := congrArg RetiredPart.cycle hvretired
  obtain ⟨d, hd, hissued, hissuedReady, huexecuted, huforwarded⟩ := hissues.count hempty
  obtain ⟨p, q, hports, x, hx, hp, hq, hqready⟩ := executeStage_passes hexecute
  obtain ⟨p', q', hports', m, hm, hp', hq', hqready'⟩ := memoryStage_passes hmemory
  obtain ⟨rfl, rfl, hvforwarded⟩ := State.recordPorts_eq_iff.mp hports
  obtain ⟨htissued, rfl, rfl⟩ := State.recordPorts_eq_iff.mp hports'
  rw [hucycle] at hx
  rw [huexecuted] at hq
  rw [hucycle, huexecuted] at hqready
  rw [hvcycle] at hm
  rw [hvforwarded, huforwarded] at hq'
  rw [hvcycle, hvforwarded, huforwarded] at hqready'
  have hexecutedReady := readyCount_le_length s.cycle s.execute2Memory
  have hforwardedReady := readyCount_le_length s.cycle s.memory2Writeback
  rw [htissued]
  exact ⟨(memoryStage_retired hmemory).trans hvretired, d, hd, x, by omega, m, by omega, by omega, by omega, hq',
    by omega⟩

/-- A cycle moves each record by one stage at most (70_reset R309). -/
theorem State.FilledBy.cycleStep (h : s.FilledBy s.cycle) (hempty : s.cycle = 0 → s.idBuf = none)
    (hcycle : cycleStep s = .next t) (hrun : t.runStatus = .running) : t.FilledBy (s.cycle + 1) := by
  obtain ⟨u, hu, hurun, hwriteback⟩ := andThenStage_next_running hcycle hrun
  obtain ⟨hretired, d, hd, x, hx, m, hm, hissued, hexecuted, hforwarded, hready⟩ :=
    beforeWriteback_passes hempty hu hurun
  obtain ⟨n, hn, hcount, q, hports, hq⟩ := writebackStage_retires hwriteback hurun
  have hexec : u.executedInstrs = s.executedInstrs := congrArg RetiredPart.executedInstrs hretired
  have hc : u.cycle = s.cycle := congrArg RetiredPart.cycle hretired
  obtain ⟨hissued', hexecuted', rfl⟩ := State.recordPorts_eq_iff.mp hports
  rw [hc] at hn
  unfold State.FilledBy at h ⊢
  rw [hissued', hexecuted']
  omega

theorem fillInv_iff :
    FillInv s ↔ s.faultedRun ∨ (s.FilledBy s.cycle ∧ (s.cycle = 0 → s.idBuf = none ∧ s.fetch2Decode = [])) := by
  simp only [FillInv, State.FilledBy, and_assoc]

/-- A completed cycle leaves the fill of the next one. -/
theorem State.FilledBy.endCycle (h : s.FilledBy (s.cycle + 1)) : FillInv s.endCycle := by
  refine fillInv_iff.mpr ?_
  rcases endCycle_cases s with ⟨-, hend⟩ | ⟨-, -, hend⟩ | ⟨-, -, hend⟩
  · rw [hend]; exact .inl (State.faultedRun_raise _ _)
  · rw [hend]; exact .inr ⟨h, nofun⟩
  · rw [hend]; exact .inr ⟨h, nofun⟩

end Step

/-- Settles O57: a cycle adds one to each bound, and each stage passes on at most what was ready for it. -/
theorem stepKeepsPipelineFill : Obligations.StepKeepsPipelineFill := by
  intro s t h hstep
  by_cases hrun : s.runStatus = .running
  · rcases Nat.lt_or_ge s.executedInstrs s.config.instrsToRun with hbudget | hbudget
    · obtain ⟨u, hcycle, ⟨hu, hnext⟩ | ⟨hu, hnext⟩⟩ := step_of_budgetLeft hrun hbudget
      · cases hstep.symm.trans hnext
        obtain ⟨hfill, hempty⟩ := (fillInv_iff.mp h).resolve_left fun ⟨f, hf⟩ => by cases hrun.symm.trans hf
        refine State.FilledBy.endCycle ?_
        rw [cycleStep_cycle hcycle]
        exact hfill.cycleStep (fun h0 => (hempty h0).left) hcycle hu
      · cases hstep.symm.trans hnext
        exact .inl hu
    · cases hstep.symm.trans (step_of_budgetMet hrun hbudget)
      exact .inr (h.resolve_left fun ⟨f, hf⟩ => by cases hrun.symm.trans hf)
  · cases hstep.symm.trans (step_of_not_running hrun)
    exact h

end Sys2Proof.Machine
end

section
/-!
SUPPORT. Construction (45_driver R260, 70_reset R301, R303): what it leaves of a legal launch, and the invariants there.
-/

namespace Sys2Proof.Machine

theorem construct_of_legal {l : Launch} (hlegal : l.config.legal = true) : construct l = .ofLaunch l :=
  construct_of_firstFailure_none (beq_iff_eq.mp hlegal)

/-! ### The reset values -/

/-- RF_INIT with register 0 cleared reads as RF_INIT in every other register (10_state R20 to R22). -/
theorem readReg_rfInit (rfInit : Vector Word 32) (hilo : DWord) (r : RegIdx) :
    readReg (rfInit.set 0 0) hilo r =
      if r = 0 then 0 else if h : r.val < 32 then wideWord rfInit[r.val] else hilo := by
  by_cases h0 : r = 0
  · rw [h0, if_pos rfl, readReg_zero]
  · have hval : r.val ≠ 0 := fun h => h0 (Fin.ext h)
    simp [readReg, h0, hval, Vector.getElem_set_ne _ _ hval.symm]

/-- A set at reset has the configured shape: no tag is valid, every entry is fresh (10_state R29 to R31). -/
theorem BtbSet.reset_ok (c : CoreConfig) : (BtbSet.reset c).ok c := by
  have htags : (BtbSet.reset c).tags.filterMap id = [] := by simp [BtbSet.reset]
  refine ⟨List.length_replicate, List.length_replicate, List.Perm.refl _, ?_, ?_, fun e he => ?_⟩
  · rw [htags]; exact List.nodup_nil
  · rw [htags]; exact List.forall_mem_nil _
  · rw [List.eq_of_mem_replicate he]
    exact BpEntry.fresh_ok c 0

theorem ofLaunch_sb (l : Launch) (r : RegIdx) : (State.ofLaunch l).sb[r.val] = true := Vector.getElem_replicate _

/-! ### The invariants at reset -/

section Invariants
variable (l : Launch)

theorem ofLaunch_btbInv (hlegal : l.config.legal = true) : BtbInv (.ofLaunch l) :=
  ⟨hlegal, List.length_replicate, fun _ hb => List.eq_of_mem_replicate hb ▸ BtbSet.reset_ok l.config⟩

theorem ofLaunch_controlPortsOk : controlPortsOk (.ofLaunch l) := by
  have hwritten {α : Type} : writtenLastCycle 0 ([] : Port α) := writtenLastCycle_nil 0
  exact ⟨rfl, rfl, rfl, hwritten, iff_of_true rfl rfl, hwritten, rfl, rfl, hwritten.singleReady, rfl, .inl rfl, .inl rfl,
    List.forall_mem_nil _⟩

theorem ofLaunch_dataPortsOk : dataPortsOk (.ofLaunch l) := by
  have hwritten {α : Type} : writtenLastCycle 0 ([] : Port α) := writtenLastCycle_nil 0
  exact ⟨hwritten.singleReady, hwritten, hwritten, hwritten, List.forall_mem_nil _, List.forall_mem_nil _⟩

/-- Every bit is set and nothing is in flight (42_scoreboard R167). -/
theorem ofLaunch_scoreboardBalanced : scoreboardBalanced (.ofLaunch l) :=
  ⟨fun r => iff_of_false (by simp [ofLaunch_sb]) List.not_mem_nil, List.nodup_nil⟩

theorem ofLaunch_pipelineInv : PipelineInv (.ofLaunch l) :=
  .inr ⟨rfl, ofLaunch_controlPortsOk l, ofLaunch_dataPortsOk l, ofLaunch_scoreboardBalanced l⟩

theorem ofLaunch_counterInv : CounterInv (.ofLaunch l) :=
  .inr ⟨Nat.zero_le _, le_rfl, rfl, .inl rfl, nofun⟩

theorem ofLaunch_fillInv : FillInv (.ofLaunch l) :=
  .inr ⟨le_rfl, le_rfl, le_rfl, le_rfl, fun _ => ⟨rfl, rfl⟩⟩

theorem ofLaunch_invariants (hlegal : l.config.legal = true) (hmem : Memory.wf l.memInit = true) :
    MemoryInv (.ofLaunch l) ∧ BtbInv (.ofLaunch l) ∧ PipelineInv (.ofLaunch l) ∧ CounterInv (.ofLaunch l) ∧
      FillInv (.ofLaunch l) :=
  ⟨⟨hmem, hmem⟩, ofLaunch_btbInv l hlegal, ofLaunch_pipelineInv l, ofLaunch_counterInv l, ofLaunch_fillInv l⟩

end Invariants

/-- Settles O51: a legal construction passes both checks, and each field has the value that `State.ofLaunch` gives it. -/
theorem launchIsClean : Obligations.LaunchIsClean := by
  intro l hlegal
  rw [construct_of_legal hlegal]
  refine ⟨rfl, rfl, readReg_rfInit l.rfInit l.hiloInit, ofLaunch_sb l, rfl, rfl, rfl, rfl, rfl, rfl, rfl, rfl, rfl, rfl,
    rfl, rfl, rfl, rfl, rfl, rfl, rfl, rfl, List.length_replicate, fun b hb => ?_, rfl, rfl, rfl, rfl⟩
  rw [List.eq_of_mem_replicate hb]
  exact ⟨rfl, rfl, rfl⟩

/-- Settles O52: a legal construction leaves the reset values, which hold no entry and count nothing; `State.reset` is
the launch of the default values. -/
theorem invariantsHoldAtLaunch : Obligations.InvariantsHoldAtLaunch := by
  refine ⟨fun l hlegal hmem => ?_, ofLaunch_invariants Launch.default (by decide) (by decide)⟩
  rw [construct_of_legal hlegal]
  exact ofLaunch_invariants l hlegal hmem

end Sys2Proof.Machine
end

section
/-!
SUPPORT. The IPC of a whole run (45_driver R264, 70_reset R313): the fill bounds what a run retires by its cycles.
-/

namespace Sys2Proof.Machine

/-- What every step keeps holds at the end of a run. -/
theorem run_keeps {P : State → Prop} (hstep : ∀ {s t : State}, P s → step s = .next t → P t) {k : Nat} {s t : State}
    (h : P s) (hrun : Host.Core.run Sys2Proof.core k s = .next t) : P t := by
  induction k generalizing s with
  | zero => cases hrun; exact h
  | succ k ih =>
    obtain ⟨u, hu⟩ := exists_step_eq_next s
    exact ih (hstep h hu) ((run_succ hu k).symm.trans hrun)

/-! ### The first retirement -/

/-- A run that has retired anything did so in cycle 4 or later. -/
def RetiresLate (s : State) : Prop := s.faultedRun ∨ (0 < s.executedInstrs → 4 ≤ s.lastWritebackCycle)

/-- A retirement counts against the fill of the cycle after it (70_reset R309, R313). -/
theorem RetiresLate.step {s t : State} (h : RetiresLate s) (hstep : step s = .next t) (hfill : FillInv t) :
    RetiresLate t := by
  by_cases hrun : s.runStatus = .running
  · have hlate := h.resolve_left fun ⟨f, hf⟩ => by cases hrun.symm.trans hf
    rcases Nat.lt_or_ge s.executedInstrs s.config.instrsToRun with hbudget | hbudget
    · by_cases hfault : t.faultedRun
      · exact .inl hfault
      · refine .inr fun hretired => ?_
        obtain ⟨hcount, -⟩ := hfill.resolve_left hfault
        obtain ⟨hcycle, ⟨hexec, hlast, -⟩ | ⟨-, hlast, -⟩, -⟩ :=
          cycleCountsAndEndsOnBudget s t hrun hbudget hstep hfault
        · rw [hlast]
          exact hlate (hexec ▸ hretired)
        · omega
    · cases hstep.symm.trans (step_of_budgetMet hrun hbudget)
      exact .inr hlate
  · cases hstep.symm.trans (step_of_not_running hrun)
    exact h

/-! ### The invariants of a launched run -/

/-- What a run of a launch with configuration `c` keeps, for the bounds on what it retires. -/
def RunInv (c : CoreConfig) (s : State) : Prop := s.config = c ∧ CounterInv s ∧ FillInv s ∧ RetiresLate s

theorem RunInv.step {c : CoreConfig} {s t : State} (h : RunInv c s) (hstep : step s = .next t) : RunInv c t := by
  obtain ⟨hconfig, hcounter, hfill, hlate⟩ := h
  have hfill' := stepKeepsPipelineFill s t hfill hstep
  exact ⟨(step_config hstep).trans hconfig, hcounter.step hstep, hfill', hlate.step hstep hfill'⟩

/-- A construction whose check fails ends the run, and any other leaves the reset values (45_driver R260). -/
theorem construct_runInv (l : Launch) : RunInv l.config (construct l) := by
  cases hfail : l.config.firstFailure with
  | none =>
    rw [construct_of_firstFailure_none hfail]
    exact ⟨rfl, ofLaunch_counterInv l, ofLaunch_fillInv l, .inr nofun⟩
  | some n =>
    rw [construct_of_firstFailure hfail]
    have hended := State.faultedRun_raise (.ofLaunch l) (.configInvalid n)
    exact ⟨rfl, .inl hended, .inl hended, .inl hended⟩

theorem run_runInv {l : Launch} {k : Nat} {t : State} (h : Host.Core.run Sys2Proof.core k (construct l) = .next t) :
    RunInv l.config t :=
  run_keeps RunInv.step (construct_runInv l) h

/-- A run that has retired anything has filled the pipeline first (70_reset R313). -/
theorem RunInv.retired_bounds {c : CoreConfig} {s : State} (h : RunInv c s) (hfault : ¬ s.faultedRun)
    (hretired : 0 < s.executedInstrs) : 4 ≤ s.lastWritebackCycle ∧ s.executedInstrs + 4 ≤ s.cycle := by
  obtain ⟨-, -, hfill, hlate⟩ := h
  obtain ⟨hcount, -⟩ := hfill.resolve_left hfault
  exact ⟨hlate.resolve_left hfault hretired, by omega⟩

/-! ### The quotient -/

theorem ipc_of_done {s : State} (hdone : s.runStatus = .done) (hcycle : s.cycle ≠ 0) :
    s.ipc = some ((s.executedInstrs : Rat) / (s.cycle : Rat)) := by
  rw [State.ipc, hdone]
  exact if_neg hcycle

/-- A positive count over at least four cycles more (70_reset R313). -/
theorem quotient_bounds {n cycles : Nat} (hn : 0 < n) (hcycles : n + 4 ≤ cycles) :
    0 < (n : Rat) / cycles ∧ (n : Rat) / cycles ≤ (n : Rat) / ((n : Rat) + 4) ∧ (n : Rat) / cycles < 1 := by
  have hn' : (0 : Rat) < n := by exact_mod_cast hn
  have hcycles' : (n : Rat) + 4 ≤ cycles := by exact_mod_cast hcycles
  have hpos : (0 : Rat) < cycles := by linarith
  refine ⟨div_pos hn' hpos, ?_, (div_lt_one hpos).mpr (by linarith)⟩
  exact div_le_div_of_nonneg_left hn'.le (by linarith) hcycles'

/-- Settles O50: the fill bounds every state of a run, and `done` fixes the count at the budget. -/
theorem ipcBelowOne : Obligations.IpcBelowOne := by
  refine ⟨fun l k t hrun => (run_runInv hrun).retired_bounds, fun l k t hrun hdone hbudget => ?_⟩
  have hfault : ¬ t.faultedRun := fun ⟨f, hf⟩ => by cases hdone.symm.trans hf
  obtain ⟨hconfig, hcounter, -⟩ := run_runInv hrun
  obtain ⟨-, -, -, -, hmet⟩ := hcounter.resolve_left hfault
  have hexec : t.executedInstrs = l.config.instrsToRun := hconfig ▸ hmet hdone
  obtain ⟨-, hcycle⟩ := (run_runInv hrun).retired_bounds hfault (hexec ▸ hbudget)
  rw [hexec] at hcycle
  refine ⟨hexec, hcycle, _, ipc_of_done hdone (by omega), by rw [hexec], ?_⟩
  rw [hexec]
  exact quotient_bounds hbudget hcycle

end Sys2Proof.Machine
end

section
/-!
SUPPORT. The canonical form of memory over a whole step (20_memory R62, R69, 45_driver R269). The CORE's memory moves only
by the access of Memory and REF's only by its own step, and each of them stores at most once.
-/

namespace Sys2Proof.Machine

/-! ### The CORE's memory -/

section Core
variable {s t : State}

theorem State.StoresOnly.mem_wf {i : Instr} {r : InstrRec} (h : s.StoresOnly i r t) (hwf : Memory.wf s.mem = true) :
    Memory.wf t.mem = true := by
  rcases h with hkept | ⟨-, hstored⟩
  · rwa [hkept]
  · rw [hstored]
    exact memStored_wf hwf ..

theorem memoryWork_mem_wf (h : memoryWork s = .next t) (ha : s.acting = .memory) (hwf : Memory.wf s.mem = true) :
    Memory.wf t.mem = true := by
  unfold memoryWork at h
  split at h
  · cases h; exact hwf
  · split at h
    · rw [exec_memory ha] at h
      obtain ⟨r, q, -, hstores⟩ := memoryOp_storesOnly h
      exact hstores.mem_wf hwf
    · cases h; exact hwf
    · cases h; exact hwf

theorem memoryOperate_mem_wf (h : memoryOperate s = .next t) (ha : s.acting = .memory) (hwf : Memory.wf s.mem = true) :
    Memory.wf t.mem = true := by
  unfold memoryOperate at h
  dsimp only at h
  split at h
  · cases h
    exact (congrArg Memory.wf (State.validateAll_mem _ _)).trans hwf
  · exact memoryWork_mem_wf h ha hwf

theorem memoryStage_mem_wf (h : memoryStage s = .next t) (hwf : Memory.wf s.mem = true) : Memory.wf t.mem = true := by
  unfold memoryStage clockStage at h
  dsimp only at h
  split at h
  · cases h; exact hwf
  · exact memoryOperate_mem_wf h rfl hwf

/-- The other stages of a cycle leave memory alone (20_memory R69). -/
theorem cycleStep_mem_wf (h : cycleStep s = .next t) (hwf : Memory.wf s.mem = true) : Memory.wf t.mem = true := by
  obtain ⟨w, hw, hwriteback⟩ := andThenStage_next h
  obtain ⟨m, hm, hmemory⟩ := andThenStage_next hw
  obtain ⟨-, hmem⟩ := beforeMemory_frame hm
  rw [← hmem] at hwf
  have hwf' : Memory.wf w.mem = true := by
    rcases hmemory with ⟨-, hstage⟩ | ⟨-, rfl⟩
    · exact memoryStage_mem_wf hstage hwf
    · exact hwf
  rcases hwriteback with ⟨-, hstage⟩ | ⟨-, rfl⟩
  · obtain ⟨hkept, -⟩ := writebackStage_frame hstage
    rwa [hkept]
  · exact hwf'

theorem step_mem_wf (h : step s = .next t) (hwf : Memory.wf s.mem = true) : Memory.wf t.mem = true := by
  rcases step_cases s with ⟨-, hstep⟩ | ⟨-, -, hstep⟩ | ⟨-, -, hstep⟩
  · cases hstep.symm.trans h; exact hwf
  · cases hstep.symm.trans h; exact hwf
  · obtain ⟨u, hu, ⟨-, hend⟩ | ⟨-, rfl⟩⟩ := andThenStage_next (hstep.symm.trans h)
    · cases hend
      rw [State.endCycle_mem]
      exact cycleStep_mem_wf hu hwf
    · exact cycleStep_mem_wf hu hwf

end Core

/-! ### REF's memory -/

section Ref
variable {c : CoreConfig} {ref ref' : RefState} {record : RetireRecord}

/-- An instruction of REF keeps its memory, or makes one MemWrite (45_driver R269). -/
theorem refExec_memf_wf {i : Instr} {raw : Word} (h : refExec c i raw ref = some (record, ref'))
    (hwf : Memory.wf ref.memf = true) : Memory.wf ref'.memf = true := by
  unfold refExec at h
  dsimp only at h
  split at h
  · next hstored =>
    cases h
    split at hstored
    · exact memWrite_wf hwf hstored
    · cases hstored; exact hwf
  · cases h

/-- A REF that is not the canonical one keeps its launch memory (log 16). -/
theorem refStep_memf_wf (h : refStep c ref = some (record, ref')) (hwf : Memory.wf ref.memf = true) :
    Memory.wf ref'.memf = true := by
  unfold refStep at h
  split at h
  · cases h; exact hwf
  · split at h
    · cases h
    · split at h
      · cases h
      · cases h
      · exact refExec_memf_wf h hwf

theorem RefMoves.memf_wf (h : RefMoves c ref ref') (hwf : Memory.wf ref.memf = true) : Memory.wf ref'.memf = true := by
  rcases h with rfl | ⟨-, record, hstep⟩
  · exact hwf
  · exact refStep_memf_wf hstep hwf

end Ref

/-- Settles O53: a step stores at most once into the CORE's memory and once into REF's, and a store keeps the form. -/
theorem stepKeepsMemoryCanonical : Obligations.StepKeepsMemoryCanonical := by
  intro s t ⟨hmem, href⟩ hstep
  exact ⟨step_mem_wf hstep hmem, (step_refMoves hstep).memf_wf href⟩

end Sys2Proof.Machine
end

section
/-!
SUPPORT. The one reading of a fixture word (95_test_vectors 1.2): a word is the packing of its fields, so a row that fixes
the fields it does not read back determines the word.
-/

namespace Sys2Proof

section Fields
variable {w : Word} {rs rt rd sa : BitVec 5} {fn op : BitVec 6} {imm : BitVec 16} {idx : BitVec 26}

/-- A word is its R-type fields, when its opcode is 0. -/
theorem packR_eq_of_fields (hop : w.extractLsb' 26 6 = 0#6) (hrs : w.extractLsb' 21 5 = rs)
    (hrt : w.extractLsb' 16 5 = rt) (hrd : w.extractLsb' 11 5 = rd) (hsa : w.extractLsb' 6 5 = sa)
    (hfn : w.extractLsb' 0 6 = fn) : packR rs rt rd sa fn = w := by
  subst hrs hrt hrd hsa hfn
  rw [packR, ← hop]
  iterate 5 rw [BitVec.extractLsb'_append_extractLsb'_eq_extractLsb' (by decide)]
  exact BitVec.extractLsb'_eq_self

/-- A word is its I-type fields. -/
theorem packI_eq_of_fields (hop : w.extractLsb' 26 6 = op) (hrs : w.extractLsb' 21 5 = rs)
    (hrt : w.extractLsb' 16 5 = rt) (himm : w.extractLsb' 0 16 = imm) : packI op rs rt imm = w := by
  subst hop hrs hrt himm
  rw [packI]
  iterate 3 rw [BitVec.extractLsb'_append_extractLsb'_eq_extractLsb' (by decide)]
  exact BitVec.extractLsb'_eq_self

/-- A word is its J-type fields. -/
theorem packJ_eq_of_fields (hop : w.extractLsb' 26 6 = op) (hidx : w.extractLsb' 0 26 = idx) : packJ op idx = w := by
  subst hop hidx
  rw [packJ, BitVec.extractLsb'_append_extractLsb'_eq_extractLsb' (by decide)]
  exact BitVec.extractLsb'_eq_self

/-- The row of jr fixes rt, rd and sa together. -/
theorem fields_zero_of_rt_rd_sa (h : w.extractLsb' 6 15 = 0) :
    w.extractLsb' 16 5 = 0 ∧ w.extractLsb' 11 5 = 0 ∧ w.extractLsb' 6 5 = 0 := by
  have hpart (k : Nat) : (w.extractLsb' 6 15).extractLsb' k 5 = 0 := by rw [h]; simp
  rw [extractLsb'_rt_rd_sa] at hpart
  exact ⟨(field_above (field_above BitVec.extractLsb'_eq_self)).symm.trans (hpart 10),
    (field_above field_last).symm.trans (hpart 5), field_last.symm.trans (hpart 0)⟩

end Fields

/-- A word that meets a row's condition is what the row's instruction packs. -/
theorem encode_decodeFixture {w : Word} {i : Instr} (h : decodeFixture w = some i) : encode i = [w] := by
  unfold decodeFixture at h
  dsimp only at h
  split at h
  · next hrow =>
    obtain ⟨hop, hfn, hsa⟩ := hrow
    cases h
    rw [encode, packR_eq_of_fields hop rfl rfl rfl hsa hfn]
  split at h
  · next hrow =>
    obtain ⟨hop, hfn, hrs⟩ := hrow
    cases h
    rw [encode, packR_eq_of_fields hop hrs rfl rfl rfl hfn]
  split at h
  · next hrow =>
    obtain ⟨hop, hfn, hzero⟩ := hrow
    obtain ⟨hrt, hrd, hsa⟩ := fields_zero_of_rt_rd_sa hzero
    cases h
    rw [encode, packR_eq_of_fields hop rfl hrt hrd hsa hfn]
  split at h
  · next hop => cases h; rw [encode, packI_eq_of_fields hop rfl rfl rfl]
  split at h
  · next hop => cases h; rw [encode, packI_eq_of_fields hop rfl rfl rfl]
  split at h
  · next hop => cases h; rw [encode, packI_eq_of_fields hop rfl rfl rfl]
  split at h
  · next hop => cases h; rw [encode, packJ_eq_of_fields hop rfl]
  split at h
  · next hop => cases h; rw [encode, packJ_eq_of_fields hop rfl]
  split at h
  · next hop => cases h; rw [encode, packI_eq_of_fields hop rfl rfl rfl]
  split at h
  · next hop => cases h; rw [encode, packI_eq_of_fields hop rfl rfl rfl]
  · cases h

/-- Settles O3: every field that a row does not read into its instruction is fixed by the row's condition. -/
theorem fixtureWordHasOneReading : Obligations.FixtureWordHasOneReading :=
  fun _ _ h => encode_decodeFixture h

end Sys2Proof
end
